-- ==== Sys2Proof/Word.lean ====
section
/-!
DEFINITION. The bit-vector types of 00_scope.md R13 and R15.
-/

namespace Sys2Proof

/-- u32: a port register, a ControlBlock field, a GPIO bank word, a command word. -/
abbrev Word := BitVec 32

/-- u8: a pixel channel, a byte of memory, a byte of the handshake channel. -/
abbrev Byte := BitVec 8

/-- u6: a brightness level, L in [0,63]. -/
abbrev Level := BitVec 6

/-- u64: a BrightnessMask; bit f is sub-frame f (30_encoding.md R102). -/
abbrev Mask := BitVec 64

/-- An sbank, b in {0,1}: one of the two Schedules of the Frameset (00_scope.md R16). -/
abbrev Sbank := BitVec 1

/-- A gbank, g in [0,3]: one of the four GPIO bank words of a DoublePixel (00_scope.md R16). -/
abbrev Gbank := BitVec 2

/-- A sub-frame, f in [0,63]. -/
abbrev SubFrame := BitVec 6

/-- A row-select, r in [0,15]. -/
abbrev RowSel := BitVec 4

/-- A scan position, p in [0,63]. -/
abbrev ScanPos := BitVec 6

/-- `b ^ 1`: the other sbank. -/
def otherSbank (b : Sbank) : Sbank := b ^^^ 1#1

/-- The zero-extension of an sbank to a u32, as RESULT and the handoff fields hold it. -/
def sbankWord (b : Sbank) : Word := b.setWidth 32

end Sys2Proof
end

