-- ==== Sys2Proof/Syntax.lean ====
section
/-!
DEFINITION. The instructions: one constructor per row of opcode_table.json, and the six of them that are commands
(30_encoding.md R110, R113).
-/

namespace Sys2Proof

/-- The nine rows of the opcode table. -/
inductive Instr where
  /-- BUILDGAMMA (40_tables.md R131). -/
  | buildGamma
  /-- BUILDDITHER (40_tables.md R137). -/
  | buildDither
  /-- ENCODE b (41_encoder.md R151). -/
  | encodeBank (b : Sbank)
  /-- BRIDGE (42_bridge.md R181). -/
  | bridge
  /-- WAITREADY (43_synchronizer.md R202). -/
  | waitReady
  /-- FINISH b (43_synchronizer.md R210). -/
  | finish (b : Sbank)
  /-- COP.FETCH, a step of COP (44_consumer.md R231). -/
  | copFetch
  /-- COP.POLL, a step of COP (44_consumer.md R233). -/
  | copPoll
  /-- MON.SAMPLE, a step of MON (44_consumer.md R240). -/
  | monSample
deriving DecidableEq, Repr

/-- The six instructions SW may write to `CMD` (00_scope.md R7). -/
inductive Command where
  | buildGamma
  | buildDither
  | encodeBank (b : Sbank)
  | bridge
  | waitReady
  | finish (b : Sbank)
deriving DecidableEq, Repr

/-- A command as a row of the table. -/
def Command.instr : Command → Instr
  | .buildGamma => .buildGamma
  | .buildDither => .buildDither
  | .encodeBank b => .encodeBank b
  | .bridge => .bridge
  | .waitReady => .waitReady
  | .finish b => .finish b

/-- The command an instruction is; the steps of COP and MON are none (30_encoding.md R113). -/
def Instr.command? : Instr → Option Command
  | .buildGamma => some .buildGamma
  | .buildDither => some .buildDither
  | .encodeBank b => some (.encodeBank b)
  | .bridge => some .bridge
  | .waitReady => some .waitReady
  | .finish b => some (.finish b)
  | .copFetch => none
  | .copPoll => none
  | .monSample => none

end Sys2Proof
end

