-- ==== Sys2Proof/Decode.lean ====
section
/-!
DEFINITION. The command word of 30_encoding.md R109 to R115: its decoder, total on every 32-bit word and refusing by
name, and its encoder, each written from the tables of R109 to R111.
-/

namespace Sys2Proof

/-- Why a word is illegal (30_encoding.md R114). -/
inductive DecodeError where
  /-- Bits 31:9 are not zero. -/
  | highBitsSet
  /-- `op` is 0x00, 0x07 to 0x0F or 0x13 to 0xFF. -/
  | reservedOp
  /-- Bit 8 is 1 and `op` takes no sbank. -/
  | operandBitSet
  /-- The word names a step of COP or MON and was written to `CMD`. -/
  | traceOnly
deriving DecidableEq, Repr

/-- Field `op`, bits 7:0 (30_encoding.md R109). -/
def opField (w : Word) : BitVec 8 := w.extractLsb' 0 8

/-- Field `b`, bit 8 (30_encoding.md R109). -/
def bankField (w : Word) : Sbank := w.extractLsb' 8 1

/-- Bits 31:9, which must be zero (30_encoding.md R109). -/
def zeroField (w : Word) : BitVec 23 := w.extractLsb' 9 23

/-- An `op` that takes no sbank: bit 8 must be 0 (30_encoding.md R109). -/
def withoutBank (b : Sbank) (i : Instr) : Except DecodeError Instr :=
  if b = 0#1 then .ok i else .error .operandBitSet

/-- The opcode map (30_encoding.md R110), the sbank operand already cut out. -/
def decodeOp (op : Nat) (b : Sbank) : Except DecodeError Instr :=
  match op with
  | 0x01 => withoutBank b .buildGamma
  | 0x02 => withoutBank b .buildDither
  | 0x03 => .ok (.encodeBank b)
  | 0x04 => withoutBank b .bridge
  | 0x05 => withoutBank b .waitReady
  | 0x06 => .ok (.finish b)
  | 0x10 => withoutBank b .copFetch
  | 0x11 => withoutBank b .copPoll
  | 0x12 => withoutBank b .monSample
  | _ => .error .reservedOp

/-- The instruction a trace word names (30_encoding.md R110, R113). -/
def decodeWord (w : Word) : Except DecodeError Instr :=
  if zeroField w = 0#23 then decodeOp (opField w).toNat (bankField w) else .error .highBitsSet

/-- The command a word written to `CMD` issues: a trace word of COP or MON is illegal there (30_encoding.md R114). -/
def decodeCmd (w : Word) : Except DecodeError Command :=
  match decodeWord w with
  | .error e => .error e
  | .ok i =>
    match i.command? with
    | some c => .ok c
    | none => .error .traceOnly

/-- The host's reading of a table row: `w` numbered as opcode_table.json numbers its bits, the bits from `nbits` on 0. -/
def decodeTableWord (nbits w : Nat) : Option Instr :=
  (decodeWord (BitVec.ofNat 32 (w % 2 ^ nbits))).toOption

/-- The word of an operation: `op` in bits 7:0, the sbank in bit 8 (30_encoding.md R109). -/
def commandWord (op : Word) (b : Sbank) : Word := op ||| (b.setWidth 32 <<< 8)

/-- The word of an instruction, from the match values of 30_encoding.md R110 and R111. -/
def encode : Instr → Word
  | .buildGamma => 0x00000001#32
  | .buildDither => 0x00000002#32
  | .encodeBank b => commandWord 0x00000003#32 b
  | .bridge => 0x00000004#32
  | .waitReady => 0x00000005#32
  | .finish b => commandWord 0x00000006#32 b
  | .copFetch => 0x00000010#32
  | .copPoll => 0x00000011#32
  | .monSample => 0x00000012#32

/-- The word SW writes to issue a command: what `E_SEQUENCE` records (60_exceptions.md R260). -/
def Command.word (c : Command) : Word := encode c.instr

end Sys2Proof
end

