-- ==== Sys2Proof/Config.lean ====
section
/-!
DEFINITION. The configuration: the parameters of 00_scope.md R10, fixed after boot (10_state.md R27), as plain
data, the constants of R8 and R9, and the free values the spec leaves open.
-/

namespace Sys2Proof

/-- `SCHED_BYTES` (00_scope.md R9). -/
def schedBytes : Nat := 1048576

/-- `FRAMESET_BYTES` (00_scope.md R9). -/
def framesetBytes : Nat := 2097152

/-- `sizeof(ControlBlock)` (10_state.md R35). -/
def cbBytes : Nat := 20

/-- The ControlBlock offsets of 30_encoding.md R106. -/
def cbOffAddr : Nat := 0x00
def cbOffSize : Nat := 0x04
def cbOffCount : Nat := 0x08
def cbOffReady : Nat := 0x0C
def cbOffStart : Nat := 0x10

/-- c in {R=0, G=1, B=2} (00_scope.md R15). -/
inductive Colour where
  | red | green | blue
deriving DecidableEq, Repr

/-- The byte of a Pixel that holds a colour (20_memory.md R61). -/
def Colour.index : Colour → Nat
  | .red => 0
  | .green => 1
  | .blue => 2

/-- A logical hardware signal (00_scope.md R11). -/
structure Signal where
  panel    : Nat
  rowgroup : Nat
  colour   : Colour
  dup      : Nat
deriving DecidableEq, Repr

/-- One entry of the wiring map, a (signal, gbank, bit) triple (30_encoding.md R108). -/
structure Wire where
  signal : Signal
  gbank  : Gbank
  bit    : BitVec 5
deriving DecidableEq, Repr

/-- One non-`NONE` entry of the source map (10_state.md R25): (r, p, panel, rowgroup) shows pixel (x, y). -/
structure SrcEntry where
  r        : RowSel
  p        : ScanPos
  panel    : Nat
  rowgroup : Nat
  x        : Nat
  y        : Nat
deriving DecidableEq, Repr

/-- `MODE` (00_scope.md R10, 42_bridge.md R191). -/
inductive Mode where
  | production | offline
deriving DecidableEq, Repr

/-- `COP_POLL` (00_scope.md R10, 44_consumer.md R232). -/
inductive CopPoll where
  | schedule | frame
deriving DecidableEq, Repr

/-- Which consumer there is: the coprocessor of the contract (44_consumer.md R230), the simulated one of R241, or
none (R242). -/
inductive CopAgent where
  | contract | simulated | absent
deriving DecidableEq, Repr

/-- The configuration. `SIGNALS` is the set of the signals of `wiring`; a (r, p, panel, rowgroup) that `src` does
not list is `NONE`. `gamma` is `GAMMA` as a binary64, and `gammaTable` holds the entries of its `GAMMA_TABLE`, of
which BUILDGAMMA loads those the spec leaves open (40_tables.md R134). `cbAddr` and `fsAddr` are where the platform holds the ControlBlock and the Frameset;
`framebufsAddr` and `framebufsSize` are what the firmware wrote into the ControlBlock (10_state.md R35). -/
structure Config where
  width         : Nat
  height        : Nat
  gamma         : BitVec 64
  gammaTable    : Vector Level 256
  nRowgroup     : Nat
  wiring        : List Wire
  src           : List SrcEntry
  payload       : List Byte
  initBank      : Sbank
  mode          : Mode
  copPoll       : CopPoll
  cop           : CopAgent
  cbAddr        : Word
  fsAddr        : Word
  framebufsAddr : Word
  framebufsSize : Word
deriving DecidableEq, Repr

/-- CFG-T of 95_test_vectors.md with `INIT_BANK = 0`, the configuration of the reset state.
DESIGN CHOICE (log 3), unsafe: no parameter has a value in the source. -/
def Config.cfgT : Config where
  width := 2
  height := 2
  gamma := 0x3FF0000000000000
  gammaTable := Vector.ofFn (fun v => BitVec.ofNat 6 (v.val / 4))
  nRowgroup := 2
  wiring :=
    [⟨⟨0, 0, .red, 0⟩, 0, 4⟩, ⟨⟨0, 0, .green, 0⟩, 0, 5⟩, ⟨⟨0, 0, .blue, 0⟩, 0, 6⟩,
     ⟨⟨0, 1, .red, 0⟩, 1, 12⟩, ⟨⟨0, 1, .green, 0⟩, 1, 13⟩, ⟨⟨0, 1, .blue, 0⟩, 2, 31⟩,
     ⟨⟨0, 0, .red, 1⟩, 3, 0⟩]
  src := [⟨0, 0, 0, 0, 0, 0⟩, ⟨0, 1, 0, 0, 1, 0⟩, ⟨0, 0, 0, 1, 0, 1⟩, ⟨0, 1, 0, 1, 1, 1⟩]
  payload := [0]
  initBank := 0
  mode := .offline
  copPoll := .schedule
  cop := .contract
  cbAddr := 0x00200000
  fsAddr := 0
  framebufsAddr := 0
  framebufsSize := 0x00200000

/-- What the physical memory holds at an address nothing has written (10_state.md R52, 93 U1). A free value (log 5). -/
opaque Config.resetByte : Nat → Byte

/-- What the pixel buffer holds at an address nothing has written (10_state.md R52). A free value (log 5). -/
opaque Config.resetPixByte : Nat → Byte

/-- What COP drives on a gbank's pins before its first fetch (70_reset_and_hazards.md R287). A free value (log 19). -/
opaque Config.resetPins : Nat → Word

/-- The word of gbank `g` that the racing read number `n` returns (20_memory.md R85, 93 U4). A free value (log 8). -/
opaque Config.raceWord : (n g : Nat) → Word

/-- Byte `o` of the Frameset in the middle of an ENCODE of its sbank, after `n` draws and with `left` events of the schedule
to come (41_encoder.md R166, 93 U2). A free value (log 2). -/
opaque Config.encodingByte : (n left o : Nat) → Byte

/-- Byte `o` of the sbank an ENCODE cut short as draw `n` has left (41_encoder.md R166, 93 U2). A free value (log 21). -/
opaque Config.abandonedByte : (n o : Nat) → Byte

/-- Which of its values, the present one or one it had since the issue, the read number `key` of the command that ends
as draw `n` finds in an operand changed under it (93 U12). A free value (log 9). -/
opaque Config.freeChoice : (n key : Nat) → Nat

/-- The table of a gamma that is not the configured `GAMMA` and that the spec does not settle, between its endpoints
(40_tables.md R134, 93 U7). A free value (log 10). -/
opaque Config.freeLevel : (gamma : BitVec 64) → (v : Byte) → Level

end Sys2Proof
end

