-- ==== Sys2Proof/Machine/Memory.lean ====
section
/-!
DEFINITION. Memory as a list of (address, byte) pairs with strictly rising addresses, its one store operation, and the
little-endian 32-bit word accesses built on it (20_memory.md R67, R68).
-/

namespace Sys2Proof.Machine

/-- A memory: the bytes something has written, by rising address. -/
abbrev Memory := List Host.Cell

/-- The byte written last at `a`, or none: an address nothing has written holds no value the spec gives
(10_state.md R52). -/
def Memory.read (m : Memory) (a : Nat) : Option Byte :=
  match m with
  | [] => none
  | (b, v) :: rest => if b = a then some v else Memory.read rest a

/-- The canonical form: addresses strictly rising. An unlisted address reads as no byte, so no listed entry can
equal what an unlisted address reads as. -/
abbrev Memory.wf (m : Memory) : Prop := m.Pairwise (fun x y => x.1 < y.1)

/-- The one store operation: the `n` bytes from `base` become `f 0, f 1, …`. -/
def Memory.fill (m : Memory) (base n : Nat) (f : Nat → Byte) : Memory :=
  m.filter (fun c => decide (c.1 < base)) ++ (List.range n).map (fun i => (base + i, f i))
    ++ m.filter (fun c => decide (base + n ≤ c.1))

/-- Byte `i` of a word: bits `8*i+7 : 8*i` (20_memory.md R68). -/
def byteOf (w : Word) (i : Nat) : Byte := w.extractLsb' (8 * i) 8

/-- Four bytes as a little-endian word (30_encoding.md R107). -/
def wordOfBytes (b0 b1 b2 b3 : Byte) : Word := b3 ++ b2 ++ b1 ++ b0

/-- `MemWrite(space, a, 4, v)`. -/
def Memory.storeWord (m : Memory) (a : Nat) (v : Word) : Memory := m.fill a 4 (byteOf v)

/-- A byte of a memory whose unwritten bytes hold what `free` says. -/
def Memory.byteAt (m : Memory) (free : Nat → Byte) (a : Nat) : Byte := (m.read a).getD (free a)

/-- `MemRead(space, a, 4)`. -/
def Memory.loadWord (m : Memory) (free : Nat → Byte) (a : Nat) : Word :=
  wordOfBytes (m.byteAt free a) (m.byteAt free (a + 1)) (m.byteAt free (a + 2)) (m.byteAt free (a + 3))

end Sys2Proof.Machine
end

