-- ==== Sys2Proof/Machine/State.lean ====
section
/-!
DEFINITION. The state of nerve-TDE (10_state.md R20), the schedule of steps that stands in for a program
(10_state.md R40, R51), the reasons a step can stop, and the state after reset (10_state.md R52).
-/

namespace Sys2Proof.Machine

/-- `GAMMA_LUT` when it holds a value (10_state.md R21). -/
abbrev GammaLut := Vector Level 256

/-- `DITHER_LUT` when it holds a value (10_state.md R22). -/
abbrev DitherLut := Vector Mask 64

/-- The host-port registers that hold a value of their own; `CMD`, `STATUS` and `HS_STATE` are views of other state
(10_state.md R28 to R34). -/
structure HostPort where
  result  : Word
  errCode : Word
  errInfo : Word
  pixW    : Word
  pixH    : Word
  pixLen  : Word
  gammaLo : Word
  gammaHi : Word
deriving DecidableEq, Repr

/-- The eleven port registers (10_state.md R28). -/
inductive PortReg where
  | cmd | status | result | errCode | errInfo | pixW | pixH | pixLen | gammaLo | gammaHi | hsState
deriving DecidableEq, Repr

/-- The two bases a successful BRIDGE binds, `CB_BASE` and `FS_BASE` (10_state.md R39). -/
structure Bases where
  cbBase : Word
  fsBase : Word
deriving DecidableEq, Repr

/-- The ghost `own`: which sbank SW may write (10_state.md R42). -/
inductive Own where
  | none
  | granted (b : Sbank)
  | written (b : Sbank)
deriving DecidableEq, Repr

/-- The pending stores of SW to one sbank (10_state.md R47): none; or stores a release has been ordered after
and no acquire of COP has read yet; or stores no release has been ordered after. -/
inductive Visibility where
  | visible
  | released
  | pending
deriving DecidableEq, Repr

/-- One value for each sbank. -/
structure PerSbank (α : Type) where
  s0 : α
  s1 : α
deriving DecidableEq, Repr

/-- Four words, one per gbank (30_encoding.md R104). -/
structure DoublePixel where
  words0 : Word
  words1 : Word
  words2 : Word
  words3 : Word
deriving DecidableEq, Repr

/-- The state of COP (10_state.md R44, R45) and the pins it drives (44_consumer.md R231, log 19). -/
structure Coproc where
  cur        : Sbank
  f          : SubFrame
  r          : RowSel
  p          : ScanPos
  atBoundary : Bool
  pins       : DoublePixel
deriving DecidableEq, Repr

/-- `HS_STATE` (10_state.md R50). -/
inductive HsState where
  | closed | opened | sent | replied | failed
deriving DecidableEq, Repr

/-- The handshake channel (20_memory.md R64): `HS_STATE`, and the device behind it: whether it opens, how many bytes
it accepts, what it was sent, what has arrived and is not read yet, whether it has reported that no more will. -/
structure Channel where
  state   : HsState
  opens   : Bool
  accepts : Nat
  sentOut : List Byte
  inbox   : List Byte
  ended   : Bool
deriving DecidableEq, Repr

/-- The three agents (00_scope.md R7). -/
inductive Agent where
  | sw | cop | mon
deriving DecidableEq, Repr

/-- The five ControlBlock fields (10_state.md R35). -/
inductive CbField where
  | framebufsAddr | framebufsSize | frameCount | readyBank | startBank
deriving DecidableEq, Repr

/-- What can happen next: a step of an agent or of the outside world (10_state.md R51, log 1). -/
inductive Event where
  /-- The step a trace word names (30_encoding.md R113): a whole command of SW, or the next step of the command
  outstanding, or a step of COP or MON. -/
  | word (w : Word)
  /-- SW writes a port register; a write to `CMD` issues and leaves the completion to a later `word` (log 2). -/
  | portWrite (off : Nat) (v : Word)
  /-- SW reads a port register. -/
  | portRead (off : Nat)
  /-- The pattern source stores a byte of the pixel buffer (20_memory.md R61). -/
  | pixStore (a : Nat) (v : Byte)
  /-- The handshake device: whether it will open and how many bytes it will accept. -/
  | hsDevice (opens : Bool) (accepts : Nat)
  /-- A byte arrives on the handshake channel. -/
  | hsDeliver (v : Byte)
  /-- The handshake channel reports that no more bytes will arrive. -/
  | hsEnd
  /-- The handshake device starts a new stream: the end reported is lifted and nothing of the old stream is left to read
  (log 22). -/
  | hsFresh
  /-- An agent asks to store into a ControlBlock field outside FINISH and COP.POLL (60_exceptions.md R268). -/
  | cbStore (who : Agent) (field : CbField) (v : Word)
  /-- SW and the block restart; the coprocessor runs on (70_reset_and_hazards.md R282). -/
  | restart
deriving DecidableEq, Repr

/-- The state. `copBases` is where COP has the ControlBlock and the Frameset, which outlasts a restart of SW (log 16). The
single homes: `BUSY` is `outstanding`, `GAMMA_VALID` and `DITHER_VALID` are whether the table
holds a value, `BRIDGED` is whether the bases do (log 6), and the ControlBlock and the Frameset are bytes of `mem`. -/
structure State where
  cfg         : Config
  gammaLut    : Option GammaLut
  ditherLut   : Option DitherLut
  port        : HostPort
  err         : Bool
  fatal       : Bool
  outstanding : Option Command
  bound       : Option Bases
  own         : Own
  cop         : Coproc
  copBases    : Bases
  mem         : Memory
  vis         : PerSbank Visibility
  pix         : Memory
  hs          : Channel
  stale       : List (PortReg × Word)
  pixStale    : Memory
  portData    : Word
  monSample   : Word
  sched       : List Event
  draws       : Nat
deriving DecidableEq, Repr

/-- Why the machine stops with a fault. -/
inductive Fault where
  /-- `E_DEFECT` (60_exceptions.md R258, 93 U11): raised by BUILDDITHER when its popcount assertion fails and by ENCODE
  when `WIRING` is not injective or `SRC` leaves the buffer. Safe: the spec makes the state never final. -/
  | defect
  /-- COP.POLL loads a `readyBank` other than 0 or 1 (44_consumer.md R236, 93 U5). Safe: the spec says fault. -/
  | readyBankIllegal
  /-- A step would address the shared memory outside the 32-bit space or misaligned (20_memory.md R69, R75): raised by
  every step that reads or writes CB or FS. Safe: BRIDGE binds no such base, so no run meets it (log 17). -/
  | addressOutsideSpace
  /-- The pattern source stores outside the pixel buffer (20_memory.md R61). Safe: no such address (log 24). -/
  | pixelOutsideBuffer
deriving DecidableEq, Repr

/-- Why a step has no meaning. -/
inductive Refusal where
  /-- An instruction exec has no meaning for yet. Safe. -/
  | notModelled (mnemonic : String)
  /-- BUILDGAMMA with a gamma that is zero, negative, infinite or NaN (40_tables.md R131, 93 U3): "refuse". Safe (log 11). -/
  | gammaOutsideDomain
  /-- BRIDGE would bind two regions that overlap (20_memory.md R75, 93 U18): "refuse". Safe (log 18). -/
  | regionsOverlap
  /-- The configuration is one a model refuses (10_state.md R24, R25; 20_memory.md R75): raised by every step. Safe (log 18). -/
  | badConfiguration
  /-- An access to a port offset that is no register (10_state.md R28): "a model has no step". Safe (log 23). -/
  | noSuchPortRegister
  /-- A store to a ControlBlock field that is no step of the spec (10_state.md R36, 60_exceptions.md R268): a model
  refuses it. Safe (log 23). -/
  | noSuchStore
deriving DecidableEq, Repr

/-- One step's outcome. -/
abbrev Out := Host.Outcome State Fault Refusal

/-- The ControlBlock at reset: the platform's descriptor, a zero counter, no handoff pending (10_state.md R35, R52). -/
def resetControlBlock (c : Config) : Memory :=
  let at_ := c.cbAddr.toNat
  Memory.storeWord (Memory.storeWord (Memory.storeWord (Memory.storeWord (Memory.storeWord []
    (at_ + cbOffAddr) c.framebufsAddr) (at_ + cbOffSize) c.framebufsSize) (at_ + cbOffCount) 0#32)
    (at_ + cbOffReady) (sbankWord c.initBank)) (at_ + cbOffStart) (sbankWord c.initBank)

/-- The state after reset of a machine configured as `c` (10_state.md R52). -/
def State.resetOf (c : Config) : State where
  cfg := c
  gammaLut := none
  ditherLut := none
  port := ⟨0, 0, 0, 0, 0, 0, 0, 0⟩
  err := false
  fatal := false
  outstanding := none
  bound := if c.mode = .offline then some ⟨c.cbAddr, c.fsAddr⟩ else none
  own := .none
  cop := ⟨c.initBank, 0, 0, 0, false,
    ⟨Config.resetPins 0, Config.resetPins 1, Config.resetPins 2, Config.resetPins 3⟩⟩
  copBases := ⟨c.cbAddr, c.fsAddr⟩
  mem := resetControlBlock c
  vis := ⟨.visible, .visible⟩
  pix := []
  hs := ⟨.closed, true, c.payload.length, [], [], false⟩
  stale := []
  pixStale := []
  portData := 0
  monSample := 0
  sched := []
  draws := 0

/-- The machine right after reset, in the configuration CFG-T (log 3). -/
def State.reset : State := State.resetOf Config.cfgT

end Sys2Proof.Machine
end

