-- ==== Sys2Proof/Machine/Gamma.lean ====
section
/-!
DEFINITION. The gamma table (40_tables.md R131 to R135): the reference table of a gamma that is a fraction, the gammas whose
table is settled, and the level BUILDGAMMA loads.
-/

namespace Sys2Proof.Machine

/-- `R(v)` of 40_tables.md R133 for gamma = a/b, in exact integers: the number of n in 1..255 with
`n - 1/2 <= 255 * (v/255)^(a/b)`, which is `round` with ties up (R132). -/
def roundedPower (a b v : Nat) : Nat :=
  ((List.range 255).filter (fun k => decide ((2 * k + 1) ^ b * 255 ^ a ≤ v ^ a * 510 ^ b))).length

/-- `q(v) = R(v) >> 2` of 40_tables.md R133 for gamma = a/b. -/
def referenceLevel (a b : Nat) (v : Byte) : Level := BitVec.ofNat 6 (roundedPower a b v.toNat / 4)

/-- The gammas whose table 40_tables.md R134 calls settled, as the binary64 nearest to each and as a fraction:
1.0, 1.8, 2.0, 2.2, 2.5, 2.8. The fraction gives the same 256 levels (DEDUCED, log 10). -/
def settledGamma (gamma : BitVec 64) : Option (Nat × Nat) :=
  if gamma = 0x3FF0000000000000#64 then some (1, 1)
  else if gamma = 0x3FFCCCCCCCCCCCCD#64 then some (9, 5)
  else if gamma = 0x4000000000000000#64 then some (2, 1)
  else if gamma = 0x400199999999999A#64 then some (11, 5)
  else if gamma = 0x4004000000000000#64 then some (5, 2)
  else if gamma = 0x4006666666666666#64 then some (14, 5)
  else none

/-- `GAMMA_TABLE`: the level BUILDGAMMA loads at entry `v` (40_tables.md R134). The ends are 0 and 63 for every gamma (R131,
R135), and a settled gamma has the reference table; every other entry is the configuration's for its `GAMMA`, and free for
another gamma that SW puts in the operand registers (log 10). -/
def gammaTable (c : Config) (gamma : BitVec 64) (v : Byte) : Level :=
  match settledGamma gamma with
  | some (a, b) => referenceLevel a b v
  | none =>
    if v = 0#8 then 0#6
    else if v = 255#8 then 63#6
    else if gamma = c.gamma then c.gammaTable[v.toNat]'v.isLt
    else Config.freeLevel gamma v

/-- gamma is finite and greater than 0 (40_tables.md R131). -/
def gammaInDomain (gamma : BitVec 64) : Bool :=
  decide (gamma.extractLsb' 63 1 = 0#1) && decide (gamma ≠ 0#64) && decide (gamma.extractLsb' 52 11 ≠ 0x7FF#11)

end Sys2Proof.Machine
end

