-- ==== Sys2Proof/WellFormed.lean ====
section
/-!
DEFINITION. Which instructions and which configurations are well formed. A model refuses the others
(10_state.md R24, R25; 20_memory.md R75).
-/

namespace Sys2Proof

/-- Every instruction is well formed: an sbank operand is one bit by its type (30_encoding.md R109). -/
def Instr.wf : Instr → Bool
  | .buildGamma => true
  | .buildDither => true
  | .encodeBank _ => true
  | .bridge => true
  | .waitReady => true
  | .finish _ => true
  | .copFetch => true
  | .copPoll => true
  | .monSample => true

/-- `WIDTH` and `HEIGHT` are positive and `WIDTH*HEIGHT*4 < 2^32` (00_scope.md R10). -/
def Config.geometryOk (c : Config) : Bool :=
  decide (0 < c.width) && decide (0 < c.height) && decide (c.width * c.height * 4 < 2 ^ 32)

/-- `NROWGROUP` is 2 or 4 and every signal's rowgroup is below it (00_scope.md R10, R11). -/
def Config.rowgroupsOk (c : Config) : Bool :=
  (c.nRowgroup == 2 || c.nRowgroup == 4) && c.wiring.all (fun w => decide (w.signal.rowgroup < c.nRowgroup))

/-- `WIRING` is a map and it is injective: no signal and no (gbank, bit) pair occurs twice (10_state.md R24). -/
def Config.wiringOk (c : Config) : Bool :=
  decide (c.wiring.map (fun w => w.signal)).Nodup && decide (c.wiring.map (fun w => (w.gbank, w.bit))).Nodup

/-- `SRC` returns only coordinates inside the buffer (10_state.md R25). -/
def Config.srcOk (c : Config) : Bool :=
  c.src.all (fun e => decide (e.x < c.width) && decide (e.y < c.height))

/-- `GAMMA` is finite and greater than 0; a model does not accept another (00_scope.md R10, 93 U3). -/
def Config.gammaOk (c : Config) : Bool := Machine.gammaInDomain c.gamma

/-- `HANDSHAKE_PAYLOAD` is not empty (00_scope.md R10). -/
def Config.payloadOk (c : Config) : Bool := !c.payload.isEmpty

/-- A region of `n` bytes is aligned and lies wholly inside the 32-bit space (20_memory.md R69, R75). -/
def regionOk (base : Word) (n : Nat) : Bool :=
  decide (base.toNat % 4 = 0) && decide (base.toNat + n ≤ 2 ^ 32)

/-- The ControlBlock at `cb` and the Frameset at `fs` do not overlap (20_memory.md R75). -/
def regionsApart (cb fs : Word) : Bool :=
  decide (cb.toNat + cbBytes ≤ fs.toNat) || decide (fs.toNat + framesetBytes ≤ cb.toNat)

/-- The platform's two regions are placed as 20_memory.md R69 and R75 ask. -/
def Config.regionsOk (c : Config) : Bool :=
  regionOk c.cbAddr cbBytes && regionOk c.fsAddr framesetBytes && regionsApart c.cbAddr c.fsAddr

/-- In production the consumer is the coprocessor of the contract: the simulated one, and none, belong to the
offline mode (42_bridge.md R191). -/
def Config.agentOk (c : Config) : Bool := c.mode == .offline || c.cop == .contract

/-- A configuration a model accepts. -/
def Config.ok (c : Config) : Bool :=
  c.geometryOk && c.gammaOk && c.rowgroupsOk && c.wiringOk && c.srcOk && c.payloadOk && c.regionsOk && c.agentOk

end Sys2Proof
end

