-- ==== Sys2Proof/Machine/Ops.lean ====
section
/-!
DEFINITION. The operations the meanings share: the views of BUSY, BRIDGED and the valid flags, the shared memory behind
its two bases, the visibility of SW's Frameset stores, the life of a command (issue, completion), and raising an error,
which on this hardware is the whole of taking an exception (60_exceptions.md R263); there is no return (R265).
-/

namespace Sys2Proof.Machine

/-! ### Views -/

/-- `STATUS.BUSY`: a command is outstanding (10_state.md R30). -/
def State.busy (s : State) : Bool := s.outstanding.isSome

/-- `GAMMA_VALID` (10_state.md R23). -/
def State.gammaValid (s : State) : Bool := s.gammaLut.isSome

/-- `DITHER_VALID` (10_state.md R23). -/
def State.ditherValid (s : State) : Bool := s.ditherLut.isSome

/-- `BRIDGED` (10_state.md R39). -/
def State.bridged (s : State) : Bool := s.bound.isSome

/-! ### The shared memory -/

/-- The bases an access to CB or FS is formed from: those BRIDGE bound, and before it, and after a restart, for COP, which
runs on, its own (44_consumer.md R239, 70_reset_and_hazards.md R282, log 16). -/
def State.bases (s : State) : Bases := s.bound.getD s.copBases

/-- Both regions are aligned and inside the 32-bit space (20_memory.md R69, R75). -/
def Bases.ok (bs : Bases) : Bool := regionOk bs.cbBase cbBytes && regionOk bs.fsBase framesetBytes

/-- The address of the first byte of sbank `b` (30_encoding.md R105). -/
def Bases.sbankBase (bs : Bases) (b : Sbank) : Nat := bs.fsBase.toNat + b.toNat * schedBytes

/-- Run a step that reaches CB or FS, or fault where its addresses do not exist (20_memory.md R75, log 17). -/
def State.onShared (s : State) (k : Bases → Out) : Out :=
  if s.bases.ok then k s.bases else .fault .addressOutsideSpace

/-- A 32-bit load of the physical memory. -/
def State.loadWord (s : State) (a : Nat) : Word := s.mem.loadWord Config.resetByte a

/-- A load of the ControlBlock field at an offset (20_memory.md R63). -/
def State.loadCb (s : State) (bs : Bases) (off : Nat) : Word := s.loadWord (bs.cbBase.toNat + off)

/-- A store of the ControlBlock field at an offset (20_memory.md R63). -/
def State.storeCb (s : State) (bs : Bases) (off : Nat) (v : Word) : State :=
  { s with mem := s.mem.storeWord (bs.cbBase.toNat + off) v }

/-- The ControlBlock fields as the machine reads them now (10_state.md R35). -/
def State.frameCount (s : State) : Word := s.loadCb s.bases cbOffCount
def State.readyBank (s : State) : Word := s.loadCb s.bases cbOffReady
def State.startBank (s : State) : Word := s.loadCb s.bases cbOffStart

/-! ### Pending stores (10_state.md R47, log 7) -/

def PerSbank.get {α : Type} (v : PerSbank α) (b : Sbank) : α := if b = 0#1 then v.s0 else v.s1

def PerSbank.set {α : Type} (v : PerSbank α) (b : Sbank) (x : α) : PerSbank α :=
  if b = 0#1 then { v with s0 := x } else { v with s1 := x }

def PerSbank.map {α : Type} (v : PerSbank α) (f : α → α) : PerSbank α := ⟨f v.s0, f v.s1⟩

/-- A release store of SW is ordered after every store SW made before it (20_memory.md R80). -/
def Visibility.release : Visibility → Visibility
  | .visible => .visible
  | .released => .released
  | .pending => .released

/-- An acquire load of COP that reads SW's latest release makes every store before that release visible to COP
(20_memory.md R82, R83). -/
def Visibility.acquire : Visibility → Visibility
  | .visible => .visible
  | .released => .visible
  | .pending => .pending

/-- The order a release store of SW makes. -/
def State.releaseStores (s : State) : State := { s with vis := s.vis.map Visibility.release }

/-- The order an acquire load by COP makes. -/
def State.acquireStores (s : State) : State := { s with vis := s.vis.map Visibility.acquire }

/-! ### Errors (60_exceptions.md R250 to R266) -/

/-- The error conditions of 60_exceptions.md R251. -/
inductive ErrCode where
  | layoutMismatch | hsOpen | hsShortWrite | hsShortRead | badDimensions | defect | badCommand | sequence | map
deriving DecidableEq, Repr

/-- The three classes of 60_exceptions.md R251. -/
inductive ErrClass where
  | reject | fatal | fault
deriving DecidableEq, Repr

/-- The code of an error (60_exceptions.md R251). -/
def ErrCode.code : ErrCode → Word
  | .layoutMismatch => 1
  | .hsOpen => 2
  | .hsShortWrite => 3
  | .hsShortRead => 4
  | .badDimensions => 5
  | .defect => 6
  | .badCommand => 7
  | .sequence => 8
  | .map => 9

/-- The class of an error (60_exceptions.md R251). -/
def ErrCode.errClass : ErrCode → ErrClass
  | .layoutMismatch => .fatal
  | .hsOpen => .fatal
  | .hsShortWrite => .fatal
  | .hsShortRead => .fatal
  | .badDimensions => .reject
  | .defect => .fault
  | .badCommand => .reject
  | .sequence => .reject
  | .map => .fatal

/-- A command ends: nothing is outstanding, and the operand values it might have read go. Where there were any, the free
values that chose among them are used up (log 9). -/
def State.endCommand (s : State) : State :=
  { s with
    outstanding := none
    stale := []
    pixStale := []
    draws := if s.stale.isEmpty && s.pixStale.isEmpty then s.draws else s.draws + 1 }

/-- The entry of an error: the command ends, `ERR`, `ERRCODE` and `ERRINFO` report it, `RESULT` stays, and the fatal
class latches `FATAL` (60_exceptions.md R263). -/
def State.report (s : State) (e : ErrCode) (info : Word) : State :=
  { s.endCommand with
    port := { s.port with errCode := e.code, errInfo := info }
    err := true
    fatal := s.fatal || decide (e.errClass = .fatal) }

/-- `raise E(info)`: the one way an error is taken. The fault class leaves a state that is never final, so the machine
stops there (60_exceptions.md R263, log 13). -/
def State.raise (s : State) (e : ErrCode) (info : Word) : Out :=
  match e.errClass with
  | .reject => .next (s.report e info)
  | .fatal => .next (s.report e info)
  | .fault => .fault .defect

/-! ### The life of a command (10_state.md R29 to R32) -/

/-- A command completes without error: `RESULT` is written, `ERRCODE` and `ERRINFO` are 0 (10_state.md R31, R32). -/
def State.complete (s : State) (result : Word) : State :=
  { s.endCommand with
    port := { s.port with result := result, errCode := 0, errInfo := 0 }
    err := false }

/-- A write to `CMD` that is not ignored clears `ERR` (10_state.md R30) and starts with its operands as they stand. -/
def State.begun (s : State) : State := { s with err := false, stale := [], pixStale := [] }

/-- A command is issued: `BUSY` rises and `ERR` is cleared (10_state.md R30). -/
def State.issued (s : State) (c : Command) : State := { s.begun with outstanding := some c }

/-- The lifecycle table of 60_exceptions.md R260. -/
def State.allows (s : State) (c : Command) : Bool :=
  match c with
  | .buildGamma => !s.gammaValid
  | .buildDither => !s.ditherValid
  | .encodeBank _ => s.gammaValid && s.ditherValid && s.bridged
  | .bridge => !s.bridged && decide (s.cfg.mode = .production)
  | .waitReady => s.bridged
  | .finish _ => s.bridged

/-- SW's step of command `c`, whose own tests and effect are `body`: the next step of the command if it is the one
outstanding; ignored while another is (10_state.md R29); else its issue, with the tests of 60_exceptions.md R262 in
their order, and `body`. The spec does not say when a write that is rejected ends; here a rejection by `FATAL` or the lifecycle
ends in the step of the write, so SW never reads `BUSY` = 1 for it (DESIGN CHOICE, log 2). -/
def State.command (s : State) (c : Command) (body : State → Out) : Out :=
  if s.outstanding = some c then body s
  else if s.busy then .next s
  else if s.fatal then (s.issued c).raise .sequence c.word
  else if s.allows c then body (s.issued c)
  else (s.issued c).raise .sequence c.word

/-- A write of an illegal word to `CMD` (60_exceptions.md R259, R262). Its rejection ends in the step of the write, as in
`State.command` (DESIGN CHOICE, log 2). -/
def State.badCommand (s : State) (w : Word) : Out :=
  if s.busy then .next s
  else if s.fatal then s.begun.raise .sequence w
  else s.begun.raise .badCommand w

end Sys2Proof.Machine
end

