-- ==== Sys2Proof/Machine/Flags.lean ====
section
/-!
DEFINITION. The status bits and the predicates of the handoff (10_state.md R30, R37, R38; 30_encoding.md R116).
-/

namespace Sys2Proof.Machine

/-- A flag as the bit at position `n` of a word. -/
def flagBit (f : Bool) (n : Nat) : Word := if f then 1#32 <<< n else 0#32

/-- `STATUS`: BUSY, ERR, FATAL, GAMMA_VALID, DITHER_VALID, BRIDGED in bits 0 to 5, the rest 0 (30_encoding.md R116). -/
def State.statusWord (s : State) : Word :=
  flagBit s.busy 0 ||| flagBit s.err 1 ||| flagBit s.fatal 2 ||| flagBit s.gammaValid 3
    ||| flagBit s.ditherValid 4 ||| flagBit s.bridged 5

/-- The code of `HS_STATE` (10_state.md R50). -/
def HsState.code : HsState → Word
  | .closed => 0
  | .opened => 1
  | .sent => 2
  | .replied => 3
  | .failed => 4

/-- The handoff-pending predicate (10_state.md R37). -/
def State.handoffPending (s : State) : Bool := decide (s.readyBank ≠ s.startBank)

/-- The protocol states of an sbank (10_state.md R38). -/
inductive BankState where
  | idle | ready | active
deriving DecidableEq, Repr

/-- The protocol state of sbank `b`, a function of the two handoff fields (10_state.md R38). -/
def State.bankState (s : State) (b : Sbank) : BankState :=
  if s.startBank = sbankWord b then .active
  else if s.readyBank = sbankWord b then .ready
  else .idle

end Sys2Proof.Machine
end

