-- ==== Sys2Proof/Machine/Operands.lean ====
section
/-!
DEFINITION. Where the operands of a command come from (30_encoding.md R112): the port registers, the pixel buffer, the
source map and the Frameset offsets. An operand changed while its command is outstanding is read as any of its values
since the issue (93 U12, log 9).
-/

namespace Sys2Proof.Machine

/-- One of the values an operand had: the present one, or one of the `old` ones. With no old one there is nothing to
choose. -/
def pick {α : Type} (now : α) (old : List α) (choice : Nat) : α :=
  match old with
  | [] => now
  | x :: xs => (now :: x :: xs).getD (choice % (xs.length + 2)) now

/-- The values a list of replaced ones keeps for one key. -/
def staleOf {κ α : Type} [DecidableEq κ] (k : κ) (l : List (κ × α)) : List α :=
  (l.filter (fun e => decide (e.1 = k))).map (fun e => e.2)

/-- What a read of a port register returns (10_state.md R28 to R34, R50). -/
def State.portRead (s : State) (r : PortReg) : Word :=
  match r with
  | .cmd => 0
  | .status => s.statusWord
  | .result => s.port.result
  | .errCode => s.port.errCode
  | .errInfo => s.port.errInfo
  | .pixW => s.port.pixW
  | .pixH => s.port.pixH
  | .pixLen => s.port.pixLen
  | .gammaLo => s.port.gammaLo
  | .gammaHi => s.port.gammaHi
  | .hsState => s.hs.state.code

/-- The number of a register's read among the free choices of one command. -/
def PortReg.key : PortReg → Nat
  | .pixW => 0
  | .pixH => 1
  | .pixLen => 2
  | .gammaLo => 3
  | .gammaHi => 4
  | .cmd => 5
  | .status => 6
  | .result => 7
  | .errCode => 8
  | .errInfo => 9
  | .hsState => 10

/-- A command reads its operand in a port register. -/
def State.portOperand (s : State) (r : PortReg) : Word :=
  pick (s.portRead r) (staleOf r s.stale) (Config.freeChoice s.draws r.key)

/-- The `PIX_LEN` a rejected ENCODE records. Its compare reads the register too: when it is changed under the command each of
the two reads returns the old or the new value by itself (41_encoder.md R152, 93 U12; DESIGN CHOICE, log 9). -/
def State.recordedLength (s : State) : Word :=
  pick s.port.pixLen (staleOf .pixLen s.stale) (Config.freeChoice s.draws 11)

/-- The boundary check (41_encoder.md R152). -/
def dimensionsMatch (cfg : Config) (w h len : Word) : Bool :=
  decide (w.toNat = cfg.width) && decide (h.toNat = cfg.height) && decide (len.toNat = cfg.width * cfg.height * 4)

/-- The values an operand register has had since the issue of the command outstanding. -/
def State.operandValues (s : State) (r : PortReg) : List Word := s.portRead r :: staleOf r s.stale

/-- The descriptor the command outstanding reads may pass the boundary check. -/
def State.descriptorMayMatch (s : State) : Bool :=
  (s.operandValues .pixW).any (fun w => (s.operandValues .pixH).any (fun h => (s.operandValues .pixLen).any (fun len =>
    dimensionsMatch s.cfg w h len)))

/-- An ENCODE of sbank `b` is outstanding and may have stored words of it: one whose descriptor fails writes no word of the
Frameset (41_encoder.md R151, R166; 60_exceptions.md R264). -/
def State.mayStore (s : State) (b : Sbank) : Bool :=
  decide (s.outstanding = some (.encodeBank b)) && s.descriptorMayMatch

/-- A read of sbank `b` by COP now is a race: SW has stores to it that no release and acquire order before the read, or
is in the middle of encoding it (20_memory.md R85, 41_encoder.md R166). A read that comes before a store R84 does not order
after it is a race of R85 too; it gives the old word, as in R91's order, and counts no draw (DESIGN CHOICE, log 8). -/
def State.races (s : State) (b : Sbank) : Bool := decide (s.vis.get b ≠ .visible) || s.mayStore b

/-- The binary64 value in `GAMMA_HI:GAMMA_LO` (10_state.md R34). -/
def State.gammaOperand (s : State) : BitVec 64 := s.portOperand .gammaHi ++ s.portOperand .gammaLo

/-- `MemRead(PIX, a, 1)` (20_memory.md R61). -/
def State.pixByte (s : State) (a : Nat) : Byte := s.pix.byteAt Config.resetPixByte a

/-- The read number `key` of a pixel byte by an ENCODE. -/
def State.pixOperand (s : State) (key a : Nat) : Byte :=
  pick (s.pixByte a) (staleOf a s.pixStale) (Config.freeChoice s.draws (key + 12))

/-- The byte address of colour `c` of pixel (x, y) (41_encoder.md R153). -/
def pixelAddr (cfg : Config) (x y : Nat) (c : Colour) : Nat := 4 * (y * cfg.width + x) + c.index

/-- `SRC(r, p, panel, rowgroup)`, none for `NONE` (10_state.md R25). -/
def sourceOf (cfg : Config) (r : RowSel) (p : ScanPos) (panel rowgroup : Nat) : Option (Nat × Nat) :=
  (cfg.src.find? (fun e =>
    decide (e.r = r) && decide (e.p = p) && decide (e.panel = panel) && decide (e.rowgroup = rowgroup))).map
    (fun e => (e.x, e.y))

/-- `off(0, f, r, p, g)`: the byte offset of a word within its sbank (30_encoding.md R105). -/
def siteOffset (f : SubFrame) (r : RowSel) (p : ScanPos) (g : Gbank) : Nat :=
  f.toNat * 16384 + r.toNat * 1024 + p.toNat * 16 + g.toNat * 4

/-- `off(b, f, r, p, g)` (30_encoding.md R105). -/
def frameOffset (b : Sbank) (f : SubFrame) (r : RowSel) (p : ScanPos) (g : Gbank) : Nat :=
  b.toNat * schedBytes + siteOffset f r p g

/-- The address of a Frameset word (20_memory.md R62). -/
def Bases.frameAddr (bs : Bases) (b : Sbank) (f : SubFrame) (r : RowSel) (p : ScanPos) (g : Gbank) : Nat :=
  bs.fsBase.toNat + frameOffset b f r p g

/-- A plain load of the Frameset word of a site. -/
def State.frameLoad (s : State) (bs : Bases) (b : Sbank) (f : SubFrame) (r : RowSel) (p : ScanPos) (g : Gbank) : Word :=
  s.loadWord (bs.frameAddr b f r p g)

/-- The Frameset byte at an offset, as an offline test inspects it (20_memory.md R68, 42_bridge.md R191). Between the issue
and the completion of ENCODE b a byte of sbank b is any value, another one at each moment, if the descriptor may pass (41_encoder.md R166, log 2). -/
def State.fsByte (s : State) (bs : Bases) (o : Nat) : Byte :=
  if s.mayStore (BitVec.ofNat 1 (o / schedBytes)) then
    Config.encodingByte s.draws s.sched.length o
  else s.mem.byteAt Config.resetByte (bs.fsBase.toNat + o)

/-- The Frameset word of a site, as an offline test inspects it (42_bridge.md R191): in the middle of an ENCODE of its sbank,
any value (41_encoder.md R166, log 2). -/
def State.fsWord (s : State) (bs : Bases) (b : Sbank) (f : SubFrame) (r : RowSel) (p : ScanPos) (g : Gbank) : Word :=
  if s.mayStore b then
    let o := frameOffset b f r p g
    let free := Config.encodingByte s.draws s.sched.length
    wordOfBytes (free o) (free (o + 1)) (free (o + 2)) (free (o + 3))
  else s.frameLoad bs b f r p g

end Sys2Proof.Machine
end

