-- ==== Sys2Proof/Machine/Bridge.lean ====
section
/-!
DEFINITION. The Shared-Memory Bridge: BRIDGE (42_bridge.md R188).
-/

namespace Sys2Proof.Machine

/-- `HS_STATE <- h`. -/
def State.setHs (s : State) (h : HsState) : State := { s with hs := { s.hs with state := h } }

/-- Steps 3 to 6 (42_bridge.md R184 to R187): bind the ControlBlock at `a`, read its descriptor, validate, bind the
Frameset. The regions are COP's from then on (log 16). Overlapping regions are a
launch a model refuses (20_memory.md R75). -/
def bridgeBind (a : Word) (s : State) : Out :=
  if regionOk a cbBytes then
    let f := s.loadWord (a.toNat + cbOffAddr)
    let size := s.loadWord (a.toNat + cbOffSize)
    if size.toNat = framesetBytes then
      if regionOk f framesetBytes then
        if regionsApart a f then .next { s.complete 0#32 with bound := some ⟨a, f⟩, copBases := ⟨a, f⟩ }
        else .refused .regionsOverlap
      else s.raise .map f
    else s.raise .layoutMismatch size
  else s.raise .map a

/-- Step 2 (42_bridge.md R183): read four bytes. The read holds until they have arrived or the channel reports that no more
will; a held BRIDGE stays outstanding. The spec does not say in how many steps BRIDGE reads a reply that is there, loads the
descriptor, checks and binds; here one step does it all, so SW never reads `HS_STATE` = Replied while `BUSY` is 1
(DESIGN CHOICE, log 22). -/
def bridgeRead (s : State) : Out :=
  match s.hs.inbox with
  | h0 :: h1 :: h2 :: h3 :: rest =>
    bridgeBind (wordOfBytes h0 h1 h2 h3) { s with hs := { s.hs with state := .replied, inbox := rest } }
  | short =>
    if s.hs.ended then
      State.raise { s with hs := { s.hs with state := .failed, inbox := [] } } .hsShortRead (BitVec.ofNat 32 short.length)
    else .next s

/-- Step 1 (42_bridge.md R182): open the channel and write the payload, in one step. The spec does not say in how many steps
BRIDGE does so; with one, `HS_STATE` = Open is passed through and never rests (DESIGN CHOICE, log 22). -/
def bridgeSend (s : State) : Out :=
  if s.hs.opens then
    let n := min s.hs.accepts s.cfg.payload.length
    let s1 := { s with hs := { s.hs with state := .opened, sentOut := s.hs.sentOut ++ s.cfg.payload.take n } }
    if n < s.cfg.payload.length then (s1.setHs .failed).raise .hsShortWrite (BitVec.ofNat 32 n)
    else bridgeRead (s1.setHs .sent)
  else (s.setHs .failed).raise .hsOpen 0

/-- BRIDGE from where it stands: a payload already sent is not sent again (42_bridge.md R189). -/
def bodyBridge (s : State) : Out := if s.hs.state = .sent then bridgeRead s else bridgeSend s

/-- BRIDGE (42_bridge.md R181). -/
def execBridge (s : State) : Out := s.command .bridge bodyBridge

end Sys2Proof.Machine
end

