-- ==== Sys2Proof/Machine/Consumer.lean ====
section
/-!
DEFINITION. The steps of COP and MON: COP.FETCH, COP.POLL, MON.SAMPLE (44_consumer.md). A step the spec does not enable in a
state leaves the state as it is: the agent has no such step there (log 12).
-/

namespace Sys2Proof.Machine

/-- `advance` of 44_consumer.md R232: p fastest, then r, then f, and the boundary bit. -/
def Coproc.advance (poll : CopPoll) (c : Coproc) : Coproc :=
  if c.p ≠ 63#6 then { c with p := c.p + 1#6 }
  else if c.r ≠ 15#4 then { c with p := 0#6, r := c.r + 1#4 }
  else { c with p := 0#6, r := 0#4, f := c.f + 1#6, atBoundary := decide (c.f = 63#6) || decide (poll = .frame) }

/-- The four words a fetch returns: those of the current DoublePixel, or, when the read races, any
(20_memory.md R85, log 8). -/
def State.fetchWords (s : State) (bs : Bases) : DoublePixel :=
  if s.races s.cop.cur then
    ⟨Config.raceWord s.draws 0, Config.raceWord s.draws 1, Config.raceWord s.draws 2, Config.raceWord s.draws 3⟩
  else
    ⟨s.frameLoad bs s.cop.cur s.cop.f s.cop.r s.cop.p 0, s.frameLoad bs s.cop.cur s.cop.f s.cop.r s.cop.p 1,
     s.frameLoad bs s.cop.cur s.cop.f s.cop.r s.cop.p 2, s.frameLoad bs s.cop.cur s.cop.f s.cop.r s.cop.p 3⟩

/-- COP.FETCH (44_consumer.md R231). -/
def execCopFetch (s : State) : Out :=
  if s.cfg.cop = .contract ∧ s.cop.atBoundary = false then
    s.onShared (fun bs =>
      .next { s with
        cop := { s.cop.advance s.cfg.copPoll with pins := s.fetchWords bs }
        draws := if s.races s.cop.cur then s.draws + 1 else s.draws })
  else .next s

/-- The boundary ends a traversal: the cursor has returned to (0, 0, 0) (10_state.md R45, log 20). -/
def Coproc.endsTraversal (c : Coproc) : Bool := decide (c.f = 0#6) && decide (c.r = 0#4) && decide (c.p = 0#6)

/-- `frameCount` counts the traversal a boundary ends (44_consumer.md R237). -/
def State.countTraversal (s : State) (bs : Bases) : State :=
  if s.cop.endsTraversal then s.storeCb bs cbOffCount (s.loadCb bs cbOffCount + 1#32) else s

/-- COP adopts sbank `n`: `cop_cur` and the release store of `startBank` change together, and replay starts at frame 0
(44_consumer.md R235). -/
def State.switchTo (s : State) (bs : Bases) (n : Word) : State :=
  { s.storeCb bs cbOffStart n with
    cop := { s.cop with cur := n.setWidth 1, f := 0#6, r := 0#4, p := 0#6, atBoundary := false } }

/-- COP stays on its sbank (44_consumer.md R234). With the boundary of a Frame the cursor goes on where it stands. -/
def State.replayOn (s : State) : State := { s with cop := { s.cop with atBoundary := false } }

/-- COP.POLL of the contract (44_consumer.md R233). -/
def pollContract (s : State) : Out :=
  if s.cop.atBoundary then
    s.onShared (fun bs =>
      let s1 := s.countTraversal bs
      let n := s1.loadCb bs cbOffReady
      if 1 < n.toNat then .fault .readyBankIllegal
      else if n ≠ sbankWord s1.cop.cur then .next (s1.acquireStores.switchTo bs n)
      else .next s1.acquireStores.replayOn)
  else .next s

/-- The step of the simulated coprocessor: no fetches, no counter, enabled at any time (44_consumer.md R241, log 25). -/
def pollSimulated (s : State) : Out :=
  s.onShared (fun bs =>
    let n := s.loadCb bs cbOffReady
    if 1 < n.toNat then .fault .readyBankIllegal
    else if n ≠ s.loadCb bs cbOffStart then
      .next { s.acquireStores.storeCb bs cbOffStart n with cop := { s.cop with cur := n.setWidth 1 } }
    else .next s.acquireStores)

/-- COP.POLL (44_consumer.md R233), of whichever coprocessor there is; with none there is no step (R242). -/
def execCopPoll (s : State) : Out :=
  match s.cfg.cop with
  | .contract => pollContract s
  | .simulated => pollSimulated s
  | .absent => .next s

/-- MON.SAMPLE (44_consumer.md R240): it requires `BRIDGED`. -/
def execMonSample (s : State) : Out :=
  if s.bridged then s.onShared (fun bs => .next { s with monSample := s.loadCb bs cbOffCount })
  else .next s

end Sys2Proof.Machine
end

