-- ==== Sys2Proof/Machine/Tables.lean ====
section
/-!
DEFINITION. The Dither Table Builder: BUILDGAMMA and BUILDDITHER (40_tables.md).
-/

namespace Sys2Proof.Machine

/-! ### BUILDGAMMA -/

/-- The 256 entries BUILDGAMMA loads. -/
def gammaEntries (c : Config) (gamma : BitVec 64) : GammaLut :=
  Vector.ofFn (fun v => gammaTable c gamma (BitVec.ofNat 8 v.val))

/-- BUILDGAMMA's own test and effect (40_tables.md R131). -/
def bodyBuildGamma (s : State) : Out :=
  if gammaInDomain s.gammaOperand then
    .next { s.complete 0#32 with gammaLut := some (gammaEntries s.cfg s.gammaOperand) }
  else .refused .gammaOutsideDomain

/-- BUILDGAMMA (40_tables.md R131). -/
def execBuildGamma (s : State) : Out := s.command .buildGamma bodyBuildGamma

/-! ### BUILDDITHER -/

/-- `pos(L, i) = floor(64*i / L)` (40_tables.md R138). -/
def bitPos (level i : Nat) : Nat := 64 * i / level

/-- The BrightnessMask of a level (40_tables.md R137). -/
def ditherMask (level : Nat) : Mask :=
  (List.range level).foldl (fun m i => m ||| (1#64 <<< bitPos level i)) 0#64

/-- `popcount(v)` (00_scope.md R14). -/
def popcount (m : Mask) : Nat := ((List.range 64).filter (fun f => m.getLsbD f)).length

/-- The 64 entries BUILDDITHER loads. -/
def ditherEntries : DitherLut := Vector.ofFn (fun level => ditherMask level.val)

/-- The assertion of 40_tables.md R137: every mask has as many bits as its level. -/
def ditherSound : Bool := (List.range 64).all (fun level => decide (popcount (ditherMask level) = level))

/-- BUILDDITHER's own test and effect (40_tables.md R137). -/
def bodyBuildDither (s : State) : Out :=
  if ditherSound then .next { s.complete 0#32 with ditherLut := some ditherEntries }
  else s.raise .defect 0

/-- BUILDDITHER (40_tables.md R137). -/
def execBuildDither (s : State) : Out := s.command .buildDither bodyBuildDither

end Sys2Proof.Machine
end

