-- ==== Sys2Proof/Machine/Encoder.lean ====
section
/-!
DEFINITION. The Temporal Dither Encoder: ENCODE (41_encoder.md).
-/

namespace Sys2Proof.Machine

/-! ### The closed form of the result (41_encoder.md R156) -/

/-- How one pass reads its inputs: a colour byte by read number and address, and the two tables. -/
structure EncodeInput where
  cfg    : Config
  gamma  : GammaLut
  dither : DitherLut

/-- The mask of a channel byte: quantized (41_encoder.md R154), then looked up (R155). -/
def EncodeInput.mask (e : EncodeInput) (v : Byte) : Mask :=
  e.dither[(e.gamma[v.toNat]'v.isLt).toNat]'(e.gamma[v.toNat]'v.isLt).isLt

/-- The number of a pixel read: one per bit of the sbank (log 9). -/
def readKey (f : SubFrame) (r : RowSel) (p : ScanPos) (w : Wire) : Nat :=
  siteOffset f r p w.gbank * 8 + w.bit.toNat

/-- Whether the signal of a wire is on at a site in a sub-frame (41_encoder.md R156): its lane shows a pixel there, and
bit f of the mask of its channel is 1. -/
def EncodeInput.lit (e : EncodeInput) (px : Nat → Nat → Byte) (f : SubFrame) (r : RowSel) (p : ScanPos) (w : Wire) : Bool :=
  match sourceOf e.cfg r p w.signal.panel w.signal.rowgroup with
  | none => false
  | some (x, y) => (e.mask (px (readKey f r p w) (pixelAddr e.cfg x y w.signal.colour))).getLsbD f.toNat

/-- `W(f, r, p, g)` of 41_encoder.md R156. -/
def EncodeInput.word (e : EncodeInput) (px : Nat → Nat → Byte) (f : SubFrame) (r : RowSel) (p : ScanPos) (g : Gbank) : Word :=
  e.cfg.wiring.foldl
    (fun acc w => if w.gbank = g ∧ e.lit px f r p w = true then acc ||| (1#32 <<< w.bit.toNat) else acc) 0#32

/-- Byte `o` of the sbank ENCODE writes, words in the order of 30_encoding.md R105, little-endian. -/
def EncodeInput.byte (e : EncodeInput) (px : Nat → Nat → Byte) (o : Nat) : Byte :=
  byteOf (e.word px (BitVec.ofNat 6 (o / 16384)) (BitVec.ofNat 4 (o / 1024)) (BitVec.ofNat 6 (o / 16))
    (BitVec.ofNat 2 (o / 4))) (o % 4)

/-! ### The reference algorithm (41_encoder.md R159), for one word -/

/-- The lanes that occur in `SIGNALS`. -/
def lanes (cfg : Config) : List (Nat × Nat) := (cfg.wiring.map (fun w => (w.signal.panel, w.signal.rowgroup))).dedup

/-- The innermost loops of R159, for one lane and colour: every signal of that lane and colour, one bit of its mask. -/
def referenceSignals (e : EncodeInput) (m : Mask) (lane : Nat × Nat) (c : Colour) (f : SubFrame) (g : Gbank) (acc : Word) : Word :=
  (e.cfg.wiring.filter (fun w => decide (w.signal.panel = lane.1 ∧ w.signal.rowgroup = lane.2 ∧ w.signal.colour = c))).foldl
    (fun acc w => if m.getLsbD f.toNat = true ∧ w.gbank = g then acc ||| (1#32 <<< w.bit.toNat) else acc) acc

/-- The word the nested loops of R159 leave at (f, r, p, g), each pixel byte read once per lane and colour. -/
def referenceWord (e : EncodeInput) (px : Nat → Byte) (f : SubFrame) (r : RowSel) (p : ScanPos) (g : Gbank) : Word :=
  (lanes e.cfg).foldl
    (fun acc lane =>
      match sourceOf e.cfg r p lane.1 lane.2 with
      | none => acc
      | some (x, y) =>
        [Colour.red, .green, .blue].foldl
          (fun acc c => referenceSignals e (e.mask (px (pixelAddr e.cfg x y c))) lane c f g acc) acc) 0#32

/-! ### The instruction -/

/-- Every word of sbank `b` written with the value of R156 (41_encoder.md R157): the stores are SW's, not yet visible to COP
(10_state.md R47). -/
def State.storeSchedule (s : State) (bs : Bases) (b : Sbank) (e : EncodeInput) : State :=
  { s with
    mem := s.mem.fill (bs.sbankBase b) schedBytes (e.byte s.pixOperand)
    vis := s.vis.set b .pending }

/-- `own` after a completed ENCODE b (10_state.md R42, log 15). -/
def Own.afterEncode (o : Own) (b : Sbank) : Own :=
  if o = .granted b ∨ o = .written b then .written b else o

/-- ENCODE's own tests and effect (41_encoder.md R151, R159). A table without a value is the lifecycle's
`E_SEQUENCE` (60_exceptions.md R260). The spec does not place the `E_DEFECT` test among the others; here it comes after
`E_BAD_DIMENSIONS` and before any store (DESIGN CHOICE, log 13). -/
def bodyEncode (b : Sbank) (s : State) : Out :=
  match s.gammaLut, s.ditherLut with
  | some gamma, some dither =>
    if dimensionsMatch s.cfg (s.portOperand .pixW) (s.portOperand .pixH) (s.portOperand .pixLen) then
      if s.cfg.wiringOk && s.cfg.srcOk then
        s.onShared (fun bs =>
          .next { (s.storeSchedule bs b ⟨s.cfg, gamma, dither⟩).complete 0#32 with own := s.own.afterEncode b })
      else s.raise .defect 0
    else s.raise .badDimensions s.recordedLength
  | _, _ => s.raise .sequence (Command.encodeBank b).word

/-- ENCODE b (41_encoder.md R151). -/
def execEncode (b : Sbank) (s : State) : Out := s.command (.encodeBank b) (bodyEncode b)

end Sys2Proof.Machine
end

