-- ==== Sys2Proof/Machine/Synchronizer.lean ====
section
/-!
DEFINITION. The software side of the Bank Synchronizer: WAITREADY and FINISH (43_synchronizer.md).
-/

namespace Sys2Proof.Machine

/-- The sbank WAITREADY grants when the two fields hold `a`: `a ^ 1`, of a field whose legal values are one bit
(43_synchronizer.md R204, log 14). -/
def grantOf (a : Word) : Sbank := otherSbank (a.setWidth 1)

/-- WAITREADY's own effect (43_synchronizer.md R202): complete when no handoff is pending, else hold, the command
outstanding and nothing else changed (R203). -/
def bodyWaitReady (s : State) : Out :=
  s.onShared (fun bs =>
    if s.loadCb bs cbOffReady = s.loadCb bs cbOffStart then
      .next { s.complete (sbankWord (grantOf (s.loadCb bs cbOffReady))) with
        own := .granted (grantOf (s.loadCb bs cbOffReady)) }
    else .next s)

/-- WAITREADY (43_synchronizer.md R202). -/
def execWaitReady (s : State) : Out := s.command .waitReady bodyWaitReady

/-- FINISH's own effect (43_synchronizer.md R210): the release store of `readyBank`. -/
def bodyFinish (b : Sbank) (s : State) : Out :=
  s.onShared (fun bs =>
    .next { ((s.releaseStores).storeCb bs cbOffReady (sbankWord b)).complete 0#32 with own := .none })

/-- FINISH b (43_synchronizer.md R210). -/
def execFinish (b : Sbank) (s : State) : Out := s.command (.finish b) (bodyFinish b)

end Sys2Proof.Machine
end

