-- ==== Sys2Proof/Machine/Dispatch.lean ====
section
/-!
DEFINITION. One arm per row of the opcode table.
-/

namespace Sys2Proof.Machine

def exec (i : Instr) (s : State) : Host.Outcome State Fault Refusal :=
  match i with
  | .buildGamma => Sys2Proof.Machine.execBuildGamma s
  | .buildDither => Sys2Proof.Machine.execBuildDither s
  | .encodeBank b => Sys2Proof.Machine.execEncode b s
  | .bridge => Sys2Proof.Machine.execBridge s
  | .waitReady => Sys2Proof.Machine.execWaitReady s
  | .finish b => Sys2Proof.Machine.execFinish b s
  | .copFetch => Sys2Proof.Machine.execCopFetch s
  | .copPoll => Sys2Proof.Machine.execCopPoll s
  | .monSample => Sys2Proof.Machine.execMonSample s

end Sys2Proof.Machine
end

