-- ==== Sys2Proof/Machine/Restart.lean ====
section
/-!
DEFINITION. A restart of SW and the block with the coprocessor left running (70_reset_and_hazards.md R282).
-/

namespace Sys2Proof.Machine

/-- What an ENCODE b cut short after its tests leaves: sbank b holds any value, in stores no release is ordered after
(41_encoder.md R166, 93 U2, log 21). -/
def State.abandonEncode (s : State) (b : Sbank) : State :=
  { s with
    mem := s.mem.fill (s.bases.sbankBase b) schedBytes (Config.abandonedByte s.draws)
    vis := s.vis.set b .pending
    draws := s.draws + 1 }

/-- The command outstanding is cut short: of the six only an ENCODE stores before it completes, and it only once its
descriptor has passed (41_encoder.md R151, R166). -/
def State.cutShort (s : State) : State :=
  match s.outstanding with
  | some (.encodeBank b) => if s.descriptorMayMatch then s.abandonEncode b else s
  | some .buildGamma => s
  | some .buildDither => s
  | some .bridge => s
  | some .waitReady => s
  | some (.finish _) => s
  | none => s

/-- A reset of the block alone: everything of SW and the block as after reset; the shared memory, COP with its bases, MON and
the device behind the handshake channel run on (70_reset_and_hazards.md R282, log 21). In offline mode the private ControlBlock
and Frameset are kept as well (DESIGN CHOICE, log 21). -/
def State.restart (s : State) : State :=
  { State.resetOf s.cfg with
    cop := s.cop
    copBases := s.copBases
    mem := s.cutShort.mem
    vis := s.cutShort.vis
    hs := { s.hs with state := .closed }
    monSample := s.monSample
    sched := s.sched
    draws := s.cutShort.draws }

end Sys2Proof.Machine
end

