-- ==== Sys2Proof/Machine/Events.lean ====
section
/-!
DEFINITION. What each event of the schedule does (log 1): the steps trace words name, SW's host-port accesses
(10_state.md R28 to R34), the pattern source, the handshake device, a restart; and the pseudo-instructions
(30_encoding.md R120 to R122).
-/

namespace Sys2Proof.Machine

/-- The register at a port offset; every access is an aligned word, so no other offset is a register
(10_state.md R28). -/
def portReg? (off : Nat) : Option PortReg :=
  match off with
  | 0x00 => some .cmd
  | 0x04 => some .status
  | 0x08 => some .result
  | 0x0C => some .errCode
  | 0x10 => some .errInfo
  | 0x14 => some .pixW
  | 0x18 => some .pixH
  | 0x1C => some .pixLen
  | 0x20 => some .gammaLo
  | 0x24 => some .gammaHi
  | 0x28 => some .hsState
  | _ => none

/-- A write of an operand register: the new value lands; while a command is outstanding the value it replaces is kept
as one the command may still read (93 U12, log 9). -/
def State.setOperand (s : State) (r : PortReg) (p : HostPort) : State :=
  { s with port := p, stale := if s.busy then (r, s.portRead r) :: s.stale else s.stale }

/-- SW writes a port register: `CMD` issues (10_state.md R29), a register marked read ignores the write (R28). -/
def State.portWrite (s : State) (r : PortReg) (v : Word) : Out :=
  match r with
  | .cmd =>
    match decodeCmd v with
    | .ok c => s.command c .next
    | .error _ => s.badCommand v
  | .pixW => .next (s.setOperand .pixW { s.port with pixW := v })
  | .pixH => .next (s.setOperand .pixH { s.port with pixH := v })
  | .pixLen => .next (s.setOperand .pixLen { s.port with pixLen := v })
  | .gammaLo => .next (s.setOperand .gammaLo { s.port with gammaLo := v })
  | .gammaHi => .next (s.setOperand .gammaHi { s.port with gammaHi := v })
  | .status => .next s
  | .result => .next s
  | .errCode => .next s
  | .errInfo => .next s
  | .hsState => .next s

/-- The pattern source stores a byte (20_memory.md R61); while a command is outstanding the byte it replaces is kept as
one the command may still read (41_encoder.md R168, log 9). -/
def State.pixStore (s : State) (a : Nat) (v : Byte) : Out :=
  if a < s.cfg.width * s.cfg.height * 4 then
    .next { s with
      pix := s.pix.fill a 1 (fun _ => v)
      pixStale := if s.busy then (a, s.pixByte a) :: s.pixStale else s.pixStale }
  else .fault .pixelOutsideBuffer

/-- A byte arrives on the handshake channel; none does once the channel has reported its end (20_memory.md R64). -/
def State.hsDeliver (s : State) (v : Byte) : State :=
  if s.hs.ended then s else { s with hs := { s.hs with inbox := s.hs.inbox ++ [v] } }

/-- The handshake device starts a new stream (log 22). A BRIDGE outstanding keeps the stream it opened. -/
def State.hsFresh (s : State) : State :=
  if s.outstanding = some .bridge then s else { s with hs := { s.hs with inbox := [], ended := false } }

/-- The step of a trace word: the instruction it names; any other word is an illegal one written to `CMD`
(30_encoding.md R113, R114). -/
def State.traceWord (s : State) (w : Word) : Out :=
  match decodeWord w with
  | .ok i => exec i s
  | .error _ => s.badCommand w

/-- What an event does. -/
def stepEvent (e : Event) (s : State) : Out :=
  match e with
  | .word w => s.traceWord w
  | .portWrite off v =>
    match portReg? off with
    | some r => s.portWrite r v
    | none => .refused .noSuchPortRegister
  | .portRead off =>
    match portReg? off with
    | some r => .next { s with portData := s.portRead r }
    | none => .refused .noSuchPortRegister
  | .pixStore a v => s.pixStore a v
  | .hsDevice opens accepts => .next { s with hs := { s.hs with opens := opens, accepts := accepts } }
  | .hsDeliver v => .next (s.hsDeliver v)
  | .hsEnd => .next { s with hs := { s.hs with ended := true } }
  | .hsFresh => .next s.hsFresh
  | .cbStore _ _ _ => .refused .noSuchStore
  | .restart => .next s.restart

/-- The next step: the first event of the schedule; with none, no agent moves (log 1). A configuration a model refuses
has no step (10_state.md R24, R25). -/
def stepNext (s : State) : Out :=
  if s.cfg.ok then
    match s.sched with
    | [] => .next s
    | e :: rest => stepEvent e { s with sched := rest }
  else .refused .badConfiguration

/-! ### Pseudo-instructions -/

/-- `BOOT gamma` (30_encoding.md R120): offline, without BRIDGE. -/
def bootEvents (mode : Mode) (gamma : BitVec 64) : List Event :=
  [.portWrite 0x20 (gamma.extractLsb' 0 32), .portWrite 0x24 (gamma.extractLsb' 32 32),
   .word (encode .buildGamma), .word (encode .buildDither)]
    ++ (if mode = .production then [.word (encode .bridge)] else [])

/-- Where SW stands in `RENDER` (30_encoding.md R121): before WAITREADY has completed, before it has read `RESULT`, and, with
the sbank it read, before ENCODE and before FINISH have completed. -/
inductive RenderPc where
  | wait
  | read
  | encode (b : Sbank)
  | finish (b : Sbank)
  | done
deriving DecidableEq, Repr

/-- SW's next event in `RENDER`. The sbank read stands in bit 8 of both words (30_encoding.md R121). -/
def RenderPc.event (pc : RenderPc) : Option Event :=
  match pc with
  | .wait => some (.word (Sys2Proof.encode .waitReady))
  | .read => some (.portRead 0x08)
  | .encode b => some (.word (Sys2Proof.encode (.encodeBank b)))
  | .finish b => some (.word (Sys2Proof.encode (.finish b)))
  | .done => none

/-- SW goes on to `pc` once its command has completed; it steps again while BUSY, and a command that ended in an error ends
`RENDER` (DESIGN CHOICE, log 27). -/
def RenderPc.after (here pc : RenderPc) (t : State) : RenderPc :=
  if t.busy then here else if t.err then .done else pc

/-- Where SW stands after its event, in the state `t` the event led to. `RESULT` is read once, after WAITREADY has completed
and before ENCODE (30_encoding.md R121). -/
def RenderPc.next (pc : RenderPc) (t : State) : RenderPc :=
  match pc with
  | .wait => RenderPc.after .wait .read t
  | .read => .encode (t.portData.setWidth 1)
  | .encode b => RenderPc.after (.encode b) (.finish b) t
  | .finish b => RenderPc.after (.finish b) .done t
  | .done => .done

/-- The events of other agents, one after another. -/
def runEvents (es : List Event) (s : State) : Out :=
  match es with
  | [] => .next s
  | e :: rest =>
    match stepEvent e s with
    | .next t => runEvents rest t
    | .fault f => .fault f
    | .refused r => .refused r

/-- `RENDER` from where SW stands, with the events of the other agents before each of SW's steps: what is left of it, and
the outcome. -/
def render (gaps : List (List Event)) (pc : RenderPc) (s : State) : RenderPc × Out :=
  match gaps with
  | [] => (pc, .next s)
  | gap :: rest =>
    match runEvents gap s, pc.event with
    | .next t, some e =>
      match stepEvent e t with
      | .next u => render rest (pc.next u) u
      | .fault f => (pc, .fault f)
      | .refused r => (pc, .refused r)
    | .next t, none => render rest pc t
    | .fault f, _ => (pc, .fault f)
    | .refused r, _ => (pc, .refused r)

/-- `SHUTDOWN` (30_encoding.md R122): nothing. -/
def shutdownEvents : List Event := []

end Sys2Proof.Machine
end

