-- ==== Sys2Proof/Machine/Step.lean ====
section
/-!
DEFINITION. One step of the machine: the first event of the schedule (10_state.md R40, R51; log 1).
-/

namespace Sys2Proof.Machine

/-- The machine's step. -/
def step (s : State) : Host.Outcome State Fault Refusal := stepNext s

/-- `s` with the word `w` of `nbits` bits as the next step of the schedule: the block fetches no instructions, and a
trace word names the next step of an agent (30_encoding.md R113). -/
def State.withFetchWord (s : State) (nbits w : Nat) : State :=
  { s with sched := .word (BitVec.ofNat 32 (w % 2 ^ nbits)) :: s.sched }

end Sys2Proof.Machine
end

