-- ==== Sys2Proof/Safety.lean ====
section
/-!
DEFINITION. What counts as a safe run: the legal states of the machine, the contract SW must keep
(70_reset_and_hazards.md R290 to R293), and the invariant of the handoff that it buys (10_state.md R53,
43_synchronizer.md R215).
-/

namespace Sys2Proof.Machine

/-- What every step keeps of every state, whatever SW does: the memories are in canonical form and inside their spaces, what
BRIDGE bound is aligned, inside the 32-bit space and apart (20_memory.md R69, R75), and the reporting registers
hold legal values (30_encoding.md R117). The bases BRIDGE bound are those COP uses, and in offline mode they are the
platform's (10_state.md R39; log 16). A command outstanding is one the lifecycle allows (60_exceptions.md R260), and
none is outstanding once `FATAL` is set (R266), since a rejected one ends in the step of its write (log 2). -/
structure State.Legal (s : State) : Prop where
  memWf : s.mem.wf
  pixWf : s.pix.wf
  memInSpace : ∀ c ∈ s.mem, c.1 < 2 ^ 32
  pixInBuffer : ∀ c ∈ s.pix, c.1 < s.cfg.width * s.cfg.height * 4
  boundOk : ∀ bs, s.bound = some bs → bs.ok = true ∧ regionsApart bs.cbBase bs.fsBase = true
  resultLegal : s.port.result.toNat ≤ 1
  errCodeLegal : s.port.errCode.toNat ≤ 9
  pendingLegal : ∀ c, s.outstanding = some c → s.allows c = true ∧ s.fatal = false
  boundShared : ∀ bs, s.bound = some bs → s.copBases = bs
  offlineShared : s.cfg.mode = .offline → s.copBases = ⟨s.cfg.cbAddr, s.cfg.fsAddr⟩

/-- A write to `CMD` is neither ignored (10_state.md R29) nor rejected by the fatal latch (R43). -/
def State.accepts (s : State) : Prop := s.outstanding = none ∧ s.fatal = false

/-- The port registers a command reads its operands from (30_encoding.md R112). -/
def operandsOf (c : Command) : List PortReg :=
  match c with
  | .buildGamma => [.gammaLo, .gammaHi]
  | .buildDither => []
  | .encodeBank _ => [.pixW, .pixH, .pixLen]
  | .bridge => []
  | .waitReady => []
  | .finish _ => []

/-- SW's step of command `c` runs its own tests and effect, as far as the port goes: it is issued now, or it is the command
outstanding and no port register it reads has been changed under it. -/
def State.takes (s : State) (c : Command) : Prop :=
  s.accepts ∨ (s.outstanding = some c ∧ ∀ e ∈ s.stale, e.1 ∉ operandsOf c)

/-- The draws a command counts when it ends: one when something has been changed under it, whether it reads it or not
(log 9). -/
def State.endDraws (s : State) : Nat :=
  if s.outstanding = none ∨ (s.stale = [] ∧ s.pixStale = []) then s.draws else s.draws + 1

/-- What a command leaves in the port when it completes: nothing outstanding, `RESULT`, and `ERRCODE`, `ERRINFO` and `ERR`
clear (10_state.md R30 to R32); the values changed under it are dropped and their draw is counted. -/
def State.withCompletion (s : State) (result : Word) : State :=
  { s with
    outstanding := none
    port := { s.port with result := result, errCode := 0#32, errInfo := 0#32 }
    err := false
    stale := []
    pixStale := []
    draws := s.endDraws }

/-- What a command leaves in the port when it ends in an error: nothing outstanding, `ERR`, `ERRCODE` and `ERRINFO`
(60_exceptions.md R263). -/
def State.withError (s : State) (code info : Word) : State :=
  { s with
    outstanding := none
    port := { s.port with errCode := code, errInfo := info }
    err := true
    stale := []
    pixStale := []
    draws := s.endDraws }

/-- What BRIDGE leaves in the channel once it has the reply, `rest` unread: the payload is sent unless a held BRIDGE
had sent it (42_bridge.md R182, R183, R189). -/
def State.repliedChannel (s : State) (rest : List Byte) : Channel :=
  { s.hs with
    state := .replied
    sentOut := if s.hs.state = .sent then s.hs.sentOut else s.hs.sentOut ++ s.cfg.payload
    inbox := rest }

/-- SW's step of BRIDGE gets to the reply: the payload is sent already or the channel opens and takes it
(42_bridge.md R182). -/
def State.sendsPayload (s : State) : Prop :=
  s.takes .bridge ∧ s.bound = none ∧ s.cfg.mode = .production
    ∧ (s.hs.state = .sent ∨ (s.hs.opens = true ∧ s.cfg.payload.length ≤ s.hs.accepts))

/-- The instructions of a list, one after another, from `s`; the first that does not go on is the outcome. -/
def execAll (is : List Instr) (s : State) : Out :=
  match is with
  | [] => .next s
  | i :: rest =>
    match exec i s with
    | .next t => execAll rest t
    | .fault f => .fault f
    | .refused r => .refused r

/-- SW may write sbank `b` (60_exceptions.md R268). -/
def Own.holds (o : Own) (b : Sbank) : Prop := o = .granted b ∨ o = .written b

/-- The command an event has SW write or step. -/
def Event.command? (e : Event) : Option Command :=
  match e with
  | .word w => (decodeCmd w).toOption
  | .portWrite off v => if off = 0 then (decodeCmd v).toOption else none
  | .portRead _ => none
  | .pixStore _ _ => none
  | .hsDevice _ _ => none
  | .hsDeliver _ => none
  | .hsEnd => none
  | .hsFresh => none
  | .cbStore _ _ _ => none
  | .restart => none

/-- The caller contract of a command: ENCODE only into the sbank held (70_reset_and_hazards.md R290, R291, R293), FINISH
only of an sbank held and encoded (R292). -/
def State.keepsContract (s : State) (c : Command) : Prop :=
  match c with
  | .encodeBank b => s.own.holds b
  | .finish b => s.own = .written b
  | .buildGamma => True
  | .buildDither => True
  | .bridge => True
  | .waitReady => True

/-- The next event of the schedule keeps the caller contract. -/
def State.nextKeepsContract (s : State) : Prop :=
  ∀ e rest c, s.sched = e :: rest → e.command? = some c → s.keepsContract c

/-- The invariant of the handoff (10_state.md R53, 43_synchronizer.md R215), with the pending stores that make every
fetch free of races. -/
structure State.HandoffSafe (s : State) : Prop where
  basesOk : s.bases.ok = true
  apart : regionsApart s.bases.cbBase s.bases.fsBase = true
  /-- `cop_cur == startBank` outside COP.POLL. -/
  curStarted : s.startBank = sbankWord s.cop.cur
  readyLegal : s.readyBank.toNat ≤ 1
  /-- SW holds only the sbank COP is not replaying, and no handoff is pending then. -/
  held : ∀ b, s.own.holds b → s.readyBank = sbankWord (otherSbank b) ∧ s.startBank = sbankWord (otherSbank b)
  /-- Stores no release is ordered after are to the sbank COP is not replaying. -/
  unpublished : ∀ b, s.vis.get b = .pending →
    s.readyBank = sbankWord (otherSbank b) ∧ s.startBank = sbankWord (otherSbank b)
  /-- An ENCODE outstanding is into the sbank held. -/
  encoding : ∀ b, s.outstanding = some (.encodeBank b) → s.own.holds b
  /-- Every store to the sbank COP is replaying is ordered before its fetches. -/
  activeVisible : s.vis.get s.cop.cur = .visible

end Sys2Proof.Machine
end

