-- ==== Sys2Proof/Certificates/Slice0/Obligations.lean ====
section
/-!
DEFINITION. The statements for the provers. Each names the rules of spec/ it formalises; OBLIGATIONS.json says which are the
spec's own words and which are derived.
-/

open Sys2Proof Sys2Proof.Machine

/-! ### The command word -/

/-- 30_encoding.md R111, and R113 for the trace words: match and mask of every row. -/
def Obligations.DecodeFollowsMatchAndMask : Prop :=
  ∀ w : Word,
    (decodeWord w = .ok .buildGamma ↔ w &&& 0xFFFFFFFF#32 = 0x01#32)
    ∧ (decodeWord w = .ok .buildDither ↔ w &&& 0xFFFFFFFF#32 = 0x02#32)
    ∧ (decodeWord w = .ok .bridge ↔ w &&& 0xFFFFFFFF#32 = 0x04#32)
    ∧ (decodeWord w = .ok .waitReady ↔ w &&& 0xFFFFFFFF#32 = 0x05#32)
    ∧ (∀ b, decodeWord w = .ok (.encodeBank b) ↔ w &&& 0xFFFFFEFF#32 = 0x03#32 ∧ w.extractLsb' 8 1 = b)
    ∧ (∀ b, decodeWord w = .ok (.finish b) ↔ w &&& 0xFFFFFEFF#32 = 0x06#32 ∧ w.extractLsb' 8 1 = b)
    ∧ (decodeWord w = .ok .copFetch ↔ w &&& 0xFFFFFFFF#32 = 0x10#32)
    ∧ (decodeWord w = .ok .copPoll ↔ w &&& 0xFFFFFFFF#32 = 0x11#32)
    ∧ (decodeWord w = .ok .monSample ↔ w &&& 0xFFFFFFFF#32 = 0x12#32)
    ∧ encode (.encodeBank 0) = 0x00000003#32 ∧ encode (.encodeBank 1) = 0x00000103#32
    ∧ encode (.finish 0) = 0x00000006#32 ∧ encode (.finish 1) = 0x00000106#32

/-- The decoder and the encoder are inverse: the legal trace words are exactly the encodings, every bit of a word counts, and
every well-formed instruction, with each of its operands, comes back. -/
def Obligations.DecodeInvertsEncode : Prop :=
  (∀ i : Instr, i.wf = true → decodeWord (encode i) = .ok i)
  ∧ ∀ (w : Word) (i : Instr), decodeWord w = .ok i → encode i = w

/-- Words written out from 30_encoding.md R109, R110 and R113; those SW may write, and the illegal ones, stand in
95_test_vectors.md 2.7. -/
def Obligations.SpecWordsDecode : Prop :=
  decodeWord 0x00000001#32 = .ok .buildGamma
  ∧ decodeWord 0x00000103#32 = .ok (.encodeBank 1)
  ∧ decodeWord 0x00000004#32 = .ok .bridge
  ∧ decodeWord 0x00000006#32 = .ok (.finish 0)
  ∧ decodeWord 0x00000011#32 = .ok .copPoll
  ∧ decodeWord 0x00000012#32 = .ok .monSample
  ∧ decodeCmd 0x00000010#32 = .error .traceOnly
  ∧ decodeWord 0x00000105#32 = .error .operandBitSet
  ∧ decodeWord 0x00000203#32 = .error .highBitsSet

/-- 30_encoding.md R114: which words are illegal on `CMD`, and that an illegal one is rejected with `E_BAD_COMMAND` and
changes no other state. That the rejection ends in the step of the write is the model's choice (log 2). -/
def Obligations.IllegalWordRejected : Prop :=
  ∀ w : Word,
    ((∃ e, decodeCmd w = .error e) ↔
      (w.toNat % 256 = 0x00 ∨ (0x07 ≤ w.toNat % 256 ∧ w.toNat % 256 ≤ 0x0F) ∨ 0x13 ≤ w.toNat % 256)
      ∨ (0x10 ≤ w.toNat % 256 ∧ w.toNat % 256 ≤ 0x12)
      ∨ w.toNat / 512 ≠ 0
      ∨ (w.toNat / 256 % 2 = 1 ∧ w.toNat % 256 ≠ 0x03 ∧ w.toNat % 256 ≠ 0x06))
    ∧ ∀ s : State, s.accepts → (∃ e, decodeCmd w = .error e) →
      stepEvent (.portWrite 0x00 w) s = .next (s.withError 7#32 w)

/-! ### The step -/

/-- A step runs the instruction its word decodes to, at the state the rest of the schedule is left in; and
`withFetchWord` puts an instruction's word there (the schedule is the model's choice, log 1). -/
def Obligations.StepRunsDecodedInstruction : Prop :=
  (∀ (s : State) (w : Word) (rest : List Event) (i : Instr), s.cfg.ok = true → s.sched = .word w :: rest →
    decodeWord w = .ok i → step s = exec i { s with sched := rest })
  ∧ ∀ (s : State) (i : Instr), s.cfg.ok = true → step (s.withFetchWord 32 (encode i).toNat) = exec i s

/-- 10_state.md R29: a write to `CMD` issues the command the word encodes when `BUSY` is 0, is ignored when `BUSY` is 1,
and a read of `CMD` returns 0. Issued this way a command rests outstanding until its next step (the model's choice, log 2).
A trace word of another command than the one outstanding, or an illegal one, is ignored as its write would be (log 12). -/
def Obligations.CmdWriteIssuesOrIsIgnored : Prop :=
  ∀ (s : State) (w : Word),
    (s.outstanding ≠ none → stepEvent (.portWrite 0x00 w) s = .next s)
    ∧ (∀ i c, i.command? = some c → s.outstanding ≠ none → s.outstanding ≠ some c → exec i s = .next s)
    ∧ (∀ e, decodeWord w = .error e → s.outstanding ≠ none → stepEvent (.word w) s = .next s)
    ∧ (∀ c, s.accepts → decodeCmd w = .ok c → s.allows c = true →
        stepEvent (.portWrite 0x00 w) s
          = .next { s with err := false, outstanding := some c, stale := [], pixStale := [] })
    ∧ stepEvent (.portRead 0x00) s = .next { s with portData := 0#32 }

/-- The host port (10_state.md R28 to R34, R50): the five registers SW writes with nothing outstanding (ChangedOperandIsOldOrNew
says what a write under a command does); and, whether or not a command is outstanding, the registers a write of which is
ignored, what a read of each of the eleven returns, the offsets that are no register (refused, log 23). -/
def Obligations.PortRegistersReadAndWrite : Prop :=
  ∀ (s : State) (v : Word),
    (s.outstanding = none →
      stepEvent (.portWrite 0x14 v) s = .next { s with port := { s.port with pixW := v } }
      ∧ stepEvent (.portWrite 0x18 v) s = .next { s with port := { s.port with pixH := v } }
      ∧ stepEvent (.portWrite 0x1C v) s = .next { s with port := { s.port with pixLen := v } }
      ∧ stepEvent (.portWrite 0x20 v) s = .next { s with port := { s.port with gammaLo := v } }
      ∧ stepEvent (.portWrite 0x24 v) s = .next { s with port := { s.port with gammaHi := v } })
    ∧ (∀ off ∈ [0x04, 0x08, 0x0C, 0x10, 0x28], stepEvent (.portWrite off v) s = .next s)
    ∧ (∀ off, 0x2C ≤ off → stepEvent (.portWrite off v) s = .refused .noSuchPortRegister
        ∧ stepEvent (.portRead off) s = .refused .noSuchPortRegister)
    ∧ (∀ x ∈ [(0x00, 0#32), (0x04, s.statusWord), (0x08, s.port.result), (0x0C, s.port.errCode), (0x10, s.port.errInfo),
        (0x14, s.port.pixW), (0x18, s.port.pixH), (0x1C, s.port.pixLen), (0x20, s.port.gammaLo), (0x24, s.port.gammaHi),
        (0x28, s.hs.state.code)], stepEvent (.portRead x.1) s = .next { s with portData := x.2 })
    ∧ [HsState.closed, .opened, .sent, .replied, .failed].map HsState.code = [0#32, 1#32, 2#32, 3#32, 4#32]

/-- 10_state.md R28 and 41_encoder.md R168 with 93 U12: an operand register, or a pixel byte, changed while a command is outstanding
holds its new value, and the command's read of it gives the new value or the old one (log 9). -/
def Obligations.ChangedOperandIsOldOrNew : Prop :=
  ∀ s : State, s.outstanding ≠ none → s.stale = [] → s.pixStale = [] →
    (∀ v : Word, ∀ x ∈ [(0x14, PortReg.pixW), (0x18, .pixH), (0x1C, .pixLen), (0x20, .gammaLo), (0x24, .gammaHi)],
      ∃ t, stepEvent (.portWrite x.1 v) s = .next t ∧ t.portRead x.2 = v
        ∧ (t.portOperand x.2 = v ∨ t.portOperand x.2 = s.portRead x.2)
        ∧ ∀ r, r ≠ x.2 → t.portOperand r = s.portRead r)
    ∧ ∀ (a : Nat) (v : Byte), a < s.cfg.width * s.cfg.height * 4 →
      ∃ t, stepEvent (.pixStore a v) s = .next t ∧ t.pixByte a = v
        ∧ (∀ key, t.pixOperand key a = v ∨ t.pixOperand key a = s.pixByte a)
        ∧ ∀ key a', a' ≠ a → t.pixOperand key a' = s.pixByte a'

/-- 30_encoding.md R116: the fields of `STATUS`. -/
def Obligations.StatusFields : Prop :=
  ∀ s : State,
    s.statusWord.getLsbD 0 = s.busy ∧ s.statusWord.getLsbD 1 = s.err ∧ s.statusWord.getLsbD 2 = s.fatal
    ∧ s.statusWord.getLsbD 3 = s.gammaValid ∧ s.statusWord.getLsbD 4 = s.ditherValid
    ∧ s.statusWord.getLsbD 5 = s.bridged ∧ ∀ k, 6 ≤ k → s.statusWord.getLsbD k = false

/-! ### BUILDGAMMA -/

/-- 40_tables.md R131, R134: in its domain, and not built before, BUILDGAMMA loads the 256 entries of the gamma's table and
changes nothing else but the reporting registers. The table of each of the six settled gammas is the reference table of its
fraction (log 10), every gamma's table has the endpoints of R131, and every other entry of `GAMMA`'s is the
configuration's (00_scope.md R10). -/
def Obligations.BuildGammaLoadsTable : Prop :=
  (∀ x ∈ [(0x3FF0000000000000#64, 1, 1), (0x3FFCCCCCCCCCCCCD#64, 9, 5), (0x4000000000000000#64, 2, 1),
      (0x400199999999999A#64, 11, 5), (0x4004000000000000#64, 5, 2), (0x4006666666666666#64, 14, 5)],
    ∀ (c : Config) (v : Byte), gammaTable c x.1 v = referenceLevel x.2.1 x.2.2 v)
  ∧ (∀ (c : Config) gamma, gammaTable c gamma 0#8 = 0#6 ∧ gammaTable c gamma 255#8 = 63#6)
  ∧ (∀ (c : Config) (v : Fin 256), c.gamma ∉ [0x3FF0000000000000#64, 0x3FFCCCCCCCCCCCCD#64, 0x4000000000000000#64,
      0x400199999999999A#64, 0x4004000000000000#64, 0x4006666666666666#64] → 0 < v.val → v.val < 255 →
      gammaTable c c.gamma (BitVec.ofNat 8 v.val) = c.gammaTable[v])
  ∧ ∀ s : State, s.takes .buildGamma → s.gammaLut = none → gammaInDomain (s.port.gammaHi ++ s.port.gammaLo) = true →
    ∃ table : GammaLut,
      exec .buildGamma s = .next { s.withCompletion 0#32 with gammaLut := some table }
      ∧ ∀ v : Fin 256, table[v] = gammaTable s.cfg (s.port.gammaHi ++ s.port.gammaLo) (BitVec.ofNat 8 v.val)

/-- 40_tables.md R132, R133 for a gamma that is a fraction a/b: the rounded value R is the integer with
`R - 1/2 <= 255*(v/255)^gamma < R + 1/2`, both sides raised to the power b to stay in the integers. -/
def Obligations.GammaReferenceRounds : Prop :=
  ∀ a b v : Nat, 0 < b → v ≤ 255 →
    roundedPower a b v ≤ 255
    ∧ (0 < roundedPower a b v → (2 * roundedPower a b v - 1) ^ b * 255 ^ a ≤ v ^ a * 510 ^ b)
    ∧ v ^ a * 510 ^ b < (2 * roundedPower a b v + 1) ^ b * 255 ^ a

/-- 40_tables.md R135 for a gamma that is a fraction a/b: the endpoints, and the level never falls. -/
def Obligations.GammaReferenceMonotone : Prop :=
  ∀ a b : Nat, 0 < a → 0 < b →
    referenceLevel a b 0#8 = 0#6 ∧ referenceLevel a b 255#8 = 63#6
    ∧ ∀ u v : Byte, u.toNat ≤ v.toNat → (referenceLevel a b u).toNat ≤ (referenceLevel a b v).toNat

/-- 40_tables.md R131 with 93 U3: outside its domain, zero, negative, infinite or NaN, BUILDGAMMA has no result and a model refuses
it (the refusal's name is the model's, log 11). -/
def Obligations.GammaOutsideDomainRefused : Prop :=
  ∀ s : State, s.takes .buildGamma → s.gammaLut = none →
    ((s.port.gammaHi ++ s.port.gammaLo) = 0#64 ∨ (s.port.gammaHi ++ s.port.gammaLo).getLsbD 63 = true
      ∨ (s.port.gammaHi ++ s.port.gammaLo).extractLsb' 52 11 = 0x7FF#11) →
    exec .buildGamma s = .refused .gammaOutsideDomain

/-! ### BUILDDITHER -/

/-- 40_tables.md R137: not built before, BUILDDITHER loads the 64 masks and changes nothing else but the reporting
registers; its assertion does not fail (R139). -/
def Obligations.BuildDitherLoadsTable : Prop :=
  ∀ s : State, s.takes .buildDither → s.ditherLut = none →
    ∃ table : DitherLut,
      exec .buildDither s = .next { s.withCompletion 0#32 with ditherLut := some table }
      ∧ ∀ level : Fin 64, table[level] = ditherMask level.val

/-- 40_tables.md R137, R138: mask L has its bits at the positions `floor(64*i/L)`, i in [0, L), and nowhere else. -/
def Obligations.DitherBitsAtQuotients : Prop :=
  ∀ level f : Nat, f < 64 → ((ditherMask level).getLsbD f = true ↔ ∃ i, i < level ∧ 64 * i / level = f)

/-- 40_tables.md R139: mask L has exactly L bits set. -/
def Obligations.DitherPopcountIsLevel : Prop :=
  ∀ level : Level, popcount (ditherMask level.toNat) = level.toNat

/-- 40_tables.md R140: from every set bit of mask L, going round, the next is at most `ceil(64/L)` away; two consecutive
positions differ by `floor(64/L)` or `ceil(64/L)`, and the gap from the last bit round to the first is `ceil(64/L)`. -/
def Obligations.DitherGapBound : Prop :=
  ∀ level : Level, level ≠ 0#6 →
    (∀ f : Fin 64, (ditherMask level.toNat).getLsbD f.val = true →
      ∃ d : Fin 65, 0 < d.val ∧ d.val ≤ (64 + level.toNat - 1) / level.toNat
        ∧ (ditherMask level.toNat).getLsbD ((f.val + d.val) % 64) = true)
    ∧ (∀ i, i + 1 < level.toNat →
        bitPos level.toNat (i + 1) = bitPos level.toNat i + 64 / level.toNat
        ∨ bitPos level.toNat (i + 1) = bitPos level.toNat i + (64 + level.toNat - 1) / level.toNat)
    ∧ 64 - bitPos level.toNat (level.toNat - 1) = (64 + level.toNat - 1) / level.toNat

/-! ### ENCODE -/

/-- 41_encoder.md R151, R157: when the lifecycle, the descriptor and the configuration allow it, ENCODE b completes: it
stores the 1 048 576 bytes of sbank b, each from the pixels and the tables (a pixel byte changed under the command is read,
each time, as one of the values it has had: R168, 93 U12, log 9), `own` is `Written b` if SW held b (10_state.md
R42), SW's stores are pending (R47), and nothing else changes but the reporting registers. -/
def Obligations.EncodeCompletes : Prop :=
  ∀ (s : State) (b : Sbank) (bs : Bases) (gamma : GammaLut) (dither : DitherLut), s.takes (.encodeBank b) →
    s.gammaLut = some gamma → s.ditherLut = some dither → s.bound = some bs → bs.ok = true →
    s.port.pixW.toNat = s.cfg.width → s.port.pixH.toNat = s.cfg.height →
    s.port.pixLen.toNat = s.cfg.width * s.cfg.height * 4 → s.cfg.wiringOk = true → s.cfg.srcOk = true →
    ∃ px : Nat → Nat → Byte,
      (∀ key a, px key a = s.pixByte a ∨ (s.outstanding = some (.encodeBank b) ∧ (a, px key a) ∈ s.pixStale))
      ∧ exec (.encodeBank b) s = .next { s.withCompletion 0#32 with
          mem := s.mem.fill (bs.fsBase.toNat + b.toNat * 1048576) 1048576 (EncodeInput.byte ⟨s.cfg, gamma, dither⟩ px)
          vis := s.vis.set b .pending
          own := if s.own = .granted b ∨ s.own = .written b then .written b else s.own }

/-- 41_encoder.md R156, R157 in memory: after ENCODE b, with no pixel changed under it (EncodeCompletes covers those), every word of
sbank b holds its closed form, and every byte outside sbank b is as before. -/
def Obligations.EncodeWritesClosedForm : Prop :=
  ∀ (s t : State) (b : Sbank) (bs : Bases) (gamma : GammaLut) (dither : DitherLut), s.takes (.encodeBank b) →
    (s.outstanding = some (.encodeBank b) → s.pixStale = []) →
    s.gammaLut = some gamma → s.ditherLut = some dither → s.bound = some bs → bs.ok = true →
    s.port.pixW.toNat = s.cfg.width → s.port.pixH.toNat = s.cfg.height →
    s.port.pixLen.toNat = s.cfg.width * s.cfg.height * 4 → s.cfg.wiringOk = true → s.cfg.srcOk = true →
    exec (.encodeBank b) s = .next t →
    (∀ f r p g, t.loadWord (bs.fsBase.toNat + (b.toNat * 1048576 + f.toNat * 16384 + r.toNat * 1024 + p.toNat * 16 + g.toNat * 4))
      = EncodeInput.word ⟨s.cfg, gamma, dither⟩ (fun _ a => s.pixByte a) f r p g)
    ∧ ∀ a, (a < bs.fsBase.toNat + b.toNat * 1048576 ∨ bs.fsBase.toNat + b.toNat * 1048576 + 1048576 ≤ a) →
        t.mem.read a = s.mem.read a

/-- 41_encoder.md R156, bit by bit: bit k of the word of gbank g is 1 exactly when some signal is wired to (g, k), its lane
shows a pixel at the site, and bit f of the mask of its quantized channel byte is 1. -/
def Obligations.EncodeWordBitOfSignal : Prop :=
  ∀ (e : EncodeInput) (px : Nat → Byte) (f : SubFrame) (r : RowSel) (p : ScanPos) (g : Gbank) (k : BitVec 5),
    (e.word (fun _ a => px a) f r p g).getLsbD k.toNat = true ↔
      ∃ w ∈ e.cfg.wiring, w.gbank = g ∧ w.bit = k ∧
        ∃ x y, sourceOf e.cfg r p w.signal.panel w.signal.rowgroup = some (x, y) ∧
          ∃ (level : Fin 64) (v : Fin 256), px (4 * (y * e.cfg.width + x) + w.signal.colour.index) = BitVec.ofNat 8 v.val
            ∧ (e.gamma[v]).toNat = level.val ∧ (e.dither[level]).getLsbD f.toNat = true

/-- 41_encoder.md R159: the closed form is what the nested loops of the reference algorithm leave. -/
def Obligations.EncodeMatchesReferenceAlgorithm : Prop :=
  ∀ (e : EncodeInput) (px : Nat → Byte) (f : SubFrame) (r : RowSel) (p : ScanPos) (g : Gbank),
    referenceWord e px f r p g = e.word (fun _ a => px a) f r p g

/-- 41_encoder.md R162: two buffers that differ only in alpha bytes give identical Schedules. -/
def Obligations.EncodeIgnoresAlpha : Prop :=
  ∀ (s t : State) (pix : Memory) (b : Sbank),
    (∀ a, a % 4 ≠ 3 → pix.byteAt Config.resetPixByte a = s.pixByte a) →
    exec (.encodeBank b) s = .next t →
    exec (.encodeBank b) { s with pix := pix } = .next { t with pix := pix }

/-- 41_encoder.md R164: encoding an identical buffer into the same sbank again leaves the same memory, and into the other
sbank leaves the same words there. -/
def Obligations.EncodeDeterministic : Prop :=
  ∀ (s : State) (bs : Bases) (gamma : GammaLut) (dither : DitherLut), s.accepts →
    s.gammaLut = some gamma → s.ditherLut = some dither → s.bound = some bs → bs.ok = true →
    s.port.pixW.toNat = s.cfg.width → s.port.pixH.toNat = s.cfg.height →
    s.port.pixLen.toNat = s.cfg.width * s.cfg.height * 4 → s.cfg.wiringOk = true → s.cfg.srcOk = true →
    (∀ b, ∃ t u, exec (.encodeBank b) s = .next t ∧ exec (.encodeBank b) t = .next u ∧ u.mem = t.mem)
    ∧ ∃ t u, exec (.encodeBank 0) s = .next t ∧ exec (.encodeBank 1) s = .next u
        ∧ ∀ f r p g, t.fsWord bs 0 f r p g = u.fsWord bs 1 f r p g

/-- 41_encoder.md R163: a signal whose lane has a pixel at a site is on in exactly as many of the 64 sub-frames as the
gamma-quantized level of its channel byte. -/
def Obligations.OnCountIsLevel : Prop :=
  ∀ (cfg : Config) (gamma : GammaLut) (px : Nat → Byte) (w : Wire) (r : RowSel) (p : ScanPos) (x y : Nat) (v : Fin 256),
    cfg.wiringOk = true → w ∈ cfg.wiring → sourceOf cfg r p w.signal.panel w.signal.rowgroup = some (x, y) →
    px (4 * (y * cfg.width + x) + w.signal.colour.index) = BitVec.ofNat 8 v.val →
    ((List.range 64).filter (fun f =>
      (EncodeInput.word ⟨cfg, gamma, ditherEntries⟩ (fun _ a => px a) (BitVec.ofNat 6 f) r p w.gbank).getLsbD w.bit.toNat)).length
      = (gamma[v]).toNat

/-- 41_encoder.md R152, 60_exceptions.md R257: wrong dimensions are rejected, `PIX_LEN` is recorded, nothing is written. That this
comes before the test of `E_DEFECT`, so that it holds beside a `WIRING` or `SRC` that is not well formed too, is the model's
choice (log 13), and so is the draw `withError` counts when something was changed under the command (log 9). -/
def Obligations.EncodeRejectsDimensions : Prop :=
  ∀ (s : State) (b : Sbank), s.takes (.encodeBank b) → s.gammaLut ≠ none → s.ditherLut ≠ none → s.bound ≠ none →
    (s.port.pixW.toNat ≠ s.cfg.width ∨ s.port.pixH.toNat ≠ s.cfg.height
      ∨ s.port.pixLen.toNat ≠ s.cfg.width * s.cfg.height * 4) →
    exec (.encodeBank b) s = .next (s.withError 5#32 s.port.pixLen)

/-- 60_exceptions.md R258: ENCODE that finds `WIRING` not injective or `SRC` out of range is a fault (`E_DEFECT`; that
it stops the machine, after the test of the descriptor, is log 13). 10_state.md R24 and R25, 93 U3: no step at all is taken in a
configuration a model refuses (the refusal's name is log 18). -/
def Obligations.EncodeDefectFaults : Prop :=
  (∀ s : State, s.cfg.ok = false → step s = .refused .badConfiguration)
  ∧ ∀ (s : State) (b : Sbank), s.takes (.encodeBank b) → s.gammaLut ≠ none → s.ditherLut ≠ none → s.bound ≠ none →
    s.port.pixW.toNat = s.cfg.width → s.port.pixH.toNat = s.cfg.height →
    s.port.pixLen.toNat = s.cfg.width * s.cfg.height * 4 →
    (¬ (s.cfg.wiring.map (fun w => (w.gbank, w.bit))).Nodup ∨ ∃ e ∈ s.cfg.src, s.cfg.width ≤ e.x ∨ s.cfg.height ≤ e.y) →
    exec (.encodeBank b) s = .fault .defect

/-! ### Errors -/

/-- 60_exceptions.md R260: the lifecycle table, for a command stepped by its trace word and for its word written to `CMD`; the
rejection records the word and changes no other state (R263). That it ends in the step of the write is the model's choice
(log 2). -/
def Obligations.LifecycleRejects : Prop :=
  ∀ s : State, s.accepts →
    let rejects := fun (i : Instr) (w : Word) =>
      exec i s = .next (s.withError 8#32 w) ∧ stepEvent (.portWrite 0x00 w) s = .next (s.withError 8#32 w)
    (s.gammaLut ≠ none → rejects .buildGamma 0x00000001#32)
    ∧ (s.ditherLut ≠ none → rejects .buildDither 0x00000002#32)
    ∧ (∀ b, (s.gammaLut = none ∨ s.ditherLut = none ∨ s.bound = none) →
        rejects (.encodeBank b) (0x00000003#32 ||| b.setWidth 32 <<< 8))
    ∧ ((s.bound ≠ none ∨ s.cfg.mode = .offline) → rejects .bridge 0x00000004#32)
    ∧ (s.bound = none → rejects .waitReady 0x00000005#32)
    ∧ ∀ b, s.bound = none → rejects (.finish b) (0x00000006#32 ||| b.setWidth 32 <<< 8)

/-- 60_exceptions.md R262, R266 and 10_state.md R43: after a fatal error every command is rejected with `E_SEQUENCE`, whatever
word SW writes to `CMD` or a trace has SW step, legal or not, and no step but a restart clears `FATAL`. That the rejection ends
in the step of the write is the model's choice (log 2). -/
def Obligations.FatalLatch : Prop :=
  (∀ s : State, s.outstanding = none → s.fatal = true →
    (∀ w, stepEvent (.portWrite 0x00 w) s = .next (s.withError 8#32 w))
    ∧ (∀ i, i.command? ≠ none → exec i s = .next (s.withError 8#32 (encode i)))
    ∧ ∀ w e, decodeWord w = .error e → stepEvent (.word w) s = .next (s.withError 8#32 w))
  ∧ ∀ s t : State, s.fatal = true → step s = .next t → (∀ rest, s.sched ≠ .restart :: rest) → t.fatal = true

/-- 60_exceptions.md R263: what raising an error of the reject or the fatal class does with nothing read under the command:
the command ends, `ERR`, `ERRCODE` and `ERRINFO` report, `RESULT` stays, the fatal class latches `FATAL`, all else stays. -/
def Obligations.ErrorEntry : Prop :=
  ∀ (s : State) (e : ErrCode) (info : Word), s.stale = [] → s.pixStale = [] →
    (e.errClass = .reject →
      s.raise e info = .next { s with
        outstanding := none, err := true, port := { s.port with errCode := e.code, errInfo := info } })
    ∧ (e.errClass = .fatal →
      s.raise e info = .next { s with
        outstanding := none, err := true, fatal := true, port := { s.port with errCode := e.code, errInfo := info } })
    ∧ (e.errClass = .fault → s.raise e info = .fault .defect)

/-! ### BRIDGE

The channel, its device and the bytes it delivers are the model's (log 22): a reply may have arrived before BRIDGE is issued,
or arrive while BRIDGE is held with `HS_STATE` Sent; the statements cover both. -/

/-- 42_bridge.md R182 to R188: with a channel that takes the whole payload, or has taken it, and has the reply, and a
descriptor that passes every check, BRIDGE binds both regions. The channel is the model's (log 22), and so is that the bases
bound are COP's from then on (log 16). -/
def Obligations.BridgeBindsRegions : Prop :=
  ∀ (s : State) (h0 h1 h2 h3 : Byte) (rest : List Byte) (a f : Word), s.sendsPayload →
    s.hs.inbox = h0 :: h1 :: h2 :: h3 :: rest → a = h3 ++ h2 ++ h1 ++ h0 →
    a.toNat % 4 = 0 → a.toNat + 20 ≤ 2 ^ 32 →
    s.loadWord (a.toNat + 0x00) = f → (s.loadWord (a.toNat + 0x04)).toNat = 2097152 →
    f.toNat % 4 = 0 → f.toNat + 2097152 ≤ 2 ^ 32 → regionsApart a f = true →
    exec .bridge s = .next { s.withCompletion 0#32 with
      bound := some ⟨a, f⟩, copBases := ⟨a, f⟩, hs := s.repliedChannel rest }

/-- 42_bridge.md R186, 60_exceptions.md R252: a `framebufsSize` that is not exactly `sizeof(Frameset)` is fatal, and the size
read is recorded. The channel is the model's (log 22). -/
def Obligations.BridgeLayoutMismatch : Prop :=
  ∀ (s : State) (h0 h1 h2 h3 : Byte) (rest : List Byte) (a : Word), s.sendsPayload →
    s.hs.inbox = h0 :: h1 :: h2 :: h3 :: rest → a = h3 ++ h2 ++ h1 ++ h0 →
    a.toNat % 4 = 0 → a.toNat + 20 ≤ 2 ^ 32 → (s.loadWord (a.toNat + 0x04)).toNat ≠ 2097152 →
    exec .bridge s = .next { s.withError 1#32 (s.loadWord (a.toNat + 0x04)) with
      fatal := true, hs := s.repliedChannel rest }

/-- 60_exceptions.md R256: a base that is misaligned or whose region would pass 2^32 is fatal, for the ControlBlock before its
descriptor is read and for the Frameset after the size check, and the address is recorded. 20_memory.md R75, 93 U18: two
regions that overlap are refused (the refusal's name is log 18). The channel is the model's (log 22). -/
def Obligations.BridgeMapError : Prop :=
  ∀ (s : State) (h0 h1 h2 h3 : Byte) (rest : List Byte) (a f : Word), s.sendsPayload →
    s.hs.inbox = h0 :: h1 :: h2 :: h3 :: rest → a = h3 ++ h2 ++ h1 ++ h0 → s.loadWord (a.toNat + 0x00) = f →
    ((a.toNat % 4 ≠ 0 ∨ 2 ^ 32 < a.toNat + 20) →
      exec .bridge s = .next { s.withError 9#32 a with fatal := true, hs := s.repliedChannel rest })
    ∧ (a.toNat % 4 = 0 → a.toNat + 20 ≤ 2 ^ 32 → (s.loadWord (a.toNat + 0x04)).toNat = 2097152 →
      ((f.toNat % 4 ≠ 0 ∨ 2 ^ 32 < f.toNat + 2097152) →
        exec .bridge s = .next { s.withError 9#32 f with fatal := true, hs := s.repliedChannel rest })
      ∧ (f.toNat % 4 = 0 → f.toNat + 2097152 ≤ 2 ^ 32 → a.toNat < f.toNat + 2097152 → f.toNat < a.toNat + 20 →
        exec .bridge s = .refused .regionsOverlap))

/-- 60_exceptions.md R253, R254, R255: the three channel errors, each fatal, with what each records. A short read is met by a
BRIDGE that has just sent and by a held one. What opens, accepts, arrives and ends is the model's channel (log 22). -/
def Obligations.BridgeChannelErrors : Prop :=
  ∀ s : State,
    (s.takes .bridge → s.bound = none → s.cfg.mode = .production → s.hs.state ≠ .sent → s.hs.opens = false →
      exec .bridge s = .next { s.withError 2#32 0#32 with fatal := true, hs := { s.hs with state := .failed } })
    ∧ (s.takes .bridge → s.bound = none → s.cfg.mode = .production → s.hs.state ≠ .sent → s.hs.opens = true →
      s.hs.accepts < s.cfg.payload.length →
      exec .bridge s = .next { s.withError 3#32 (BitVec.ofNat 32 s.hs.accepts) with
        fatal := true
        hs := { s.hs with state := .failed, sentOut := s.hs.sentOut ++ s.cfg.payload.take s.hs.accepts } })
    ∧ (s.sendsPayload → s.hs.inbox.length < 4 → s.hs.ended = true →
      exec .bridge s = .next { s.withError 4#32 (BitVec.ofNat 32 s.hs.inbox.length) with
        fatal := true
        hs := { s.repliedChannel [] with state := .failed } })

/-- 42_bridge.md R183: the read holds until four bytes have arrived or the channel reports that no more will. That the held
command answers a next state in which it stays outstanding is log 12, the channel log 22; its next step does not send again,
and once the reply or the end is there it goes on as BridgeBindsRegions, BridgeLayoutMismatch, BridgeMapError and
BridgeChannelErrors say. -/
def Obligations.BridgeHoldsForReply : Prop :=
  ∀ s : State, s.hs.inbox.length < 4 → s.hs.ended = false →
    (s.accepts → s.bound = none → s.cfg.mode = .production → s.hs.state ≠ .sent → s.hs.opens = true →
      s.cfg.payload.length ≤ s.hs.accepts →
      exec .bridge s = .next { s with
        err := false, outstanding := some .bridge, stale := [], pixStale := []
        hs := { s.hs with state := .sent, sentOut := s.hs.sentOut ++ s.cfg.payload } })
    ∧ (s.outstanding = some .bridge → s.hs.state ≠ .sent → s.hs.opens = true → s.cfg.payload.length ≤ s.hs.accepts →
      exec .bridge s = .next { s with
        hs := { s.hs with state := .sent, sentOut := s.hs.sentOut ++ s.cfg.payload } })
    ∧ (s.outstanding = some .bridge → s.hs.state = .sent → exec .bridge s = .next s)

/-! ### WAITREADY and FINISH -/

/-- 43_synchronizer.md R202, R204: with no handoff pending WAITREADY completes and grants the sbank that is not active; no
memory is written. -/
def Obligations.WaitReadyGrants : Prop :=
  ∀ (s : State) (a : Sbank), s.accepts → s.bound ≠ none → s.bases.ok = true →
    s.readyBank = sbankWord a → s.startBank = sbankWord a →
    exec .waitReady s = .next { s.withCompletion (sbankWord (a ^^^ 1#1)) with own := .granted (a ^^^ 1#1) }

/-- 43_synchronizer.md R203: while a handoff is pending WAITREADY has no completing step. That it answers a next state in which
it is outstanding and nothing else is changed is the model's form of a hold (log 12); once the two fields are equal its next
step completes. -/
def Obligations.WaitReadyHolds : Prop :=
  ∀ s : State, s.bases.ok = true →
    (s.accepts → s.bound ≠ none → s.readyBank ≠ s.startBank →
      exec .waitReady s = .next { s with err := false, outstanding := some .waitReady, stale := [], pixStale := [] })
    ∧ (s.outstanding = some .waitReady → s.readyBank ≠ s.startBank → exec .waitReady s = .next s)
    ∧ ∀ a, s.outstanding = some .waitReady → s.readyBank = sbankWord a → s.startBank = sbankWord a →
        ∃ t, exec .waitReady s = .next t ∧ t.outstanding = none ∧ t.port.result = sbankWord (a ^^^ 1#1)
          ∧ t.port.errCode = 0#32 ∧ t.port.errInfo = 0#32 ∧ t.own = .granted (a ^^^ 1#1) ∧ t.mem = s.mem

/-- 43_synchronizer.md R210: FINISH b stores b to `readyBank`, and only that word of memory, after everything SW stored
before (20_memory.md R80), leaves `own` None, and never holds (R213). -/
def Obligations.FinishPublishes : Prop :=
  ∀ (s : State) (b : Sbank) (bs : Bases), s.takes (.finish b) → s.bound = some bs → bs.ok = true →
    ∃ t, exec (.finish b) s = .next t
      ∧ t = { s.withCompletion 0#32 with mem := t.mem, vis := s.vis.map Visibility.release, own := .none }
      ∧ t.readyBank = sbankWord b ∧ t.startBank = s.startBank ∧ t.frameCount = s.frameCount
      ∧ ∀ a, (a < bs.cbBase.toNat + 0x0C ∨ bs.cbBase.toNat + 0x0C + 4 ≤ a) → t.mem.read a = s.mem.read a

/-! ### COP and MON -/

/-- 44_consumer.md R231: COP.FETCH reads the four words of the DoublePixel at the cursor in the current sbank, when no store of
SW to it is pending and no ENCODE of it may be storing, advances the cursor, and changes nothing else. That it reads them so even when
SW stores to that sbank later, unordered, is the model's choice (20_memory.md R85, R91; log 8). -/
def Obligations.FetchReadsDoublePixel : Prop :=
  ∀ s : State, s.cfg.cop = .contract → s.cop.atBoundary = false → s.bases.ok = true →
    s.vis.get s.cop.cur = .visible → s.mayStore s.cop.cur = false →
    ∃ c, exec .copFetch s = .next { s with cop := c }
      ∧ c.cur = s.cop.cur
      ∧ [c.pins.words0, c.pins.words1, c.pins.words2, c.pins.words3] = [0, 4, 8, 12].map (fun g =>
          s.loadWord (s.bases.fsBase.toNat + (s.cop.cur.toNat * 1048576 + s.cop.f.toNat * 16384 + s.cop.r.toNat * 1024
            + s.cop.p.toNat * 16 + g)))
      ∧ c = { s.cop.advance s.cfg.copPoll with pins := c.pins }

/-- 20_memory.md R85, 93 U4: a fetch that races with SW's stores completes with free values on the pins and is counted (the
count is the model's, log 8). An ENCODE outstanding may be storing its sbank exactly when its descriptor, each register at a
value it has had since the issue, passes the boundary check (41_encoder.md R151, R152; log 2, log 9). -/
def Obligations.RacingFetchDraws : Prop :=
  (∀ (s : State) (b : Sbank), s.mayStore b = true ↔ s.outstanding = some (.encodeBank b)
    ∧ (∃ w, (w = s.port.pixW ∨ (.pixW, w) ∈ s.stale) ∧ w.toNat = s.cfg.width)
    ∧ (∃ h, (h = s.port.pixH ∨ (.pixH, h) ∈ s.stale) ∧ h.toNat = s.cfg.height)
    ∧ ∃ len, (len = s.port.pixLen ∨ (.pixLen, len) ∈ s.stale) ∧ len.toNat = s.cfg.width * s.cfg.height * 4)
  ∧ ∀ s : State, s.cfg.cop = .contract → s.cop.atBoundary = false → s.bases.ok = true →
    (s.vis.get s.cop.cur ≠ .visible ∨ s.mayStore s.cop.cur = true) →
    exec .copFetch s = .next { s with
      cop := { s.cop.advance s.cfg.copPoll with pins :=
        ⟨Config.raceWord s.draws 0, Config.raceWord s.draws 1, Config.raceWord s.draws 2, Config.raceWord s.draws 3⟩ }
      draws := s.draws + 1 }

/-- 44_consumer.md R232: the cursor visits the 65 536 sites in storage order, and a boundary follows the last site of a traversal
or, when COP polls at Frames, of a Frame. -/
def Obligations.FetchAdvancesInStorageOrder : Prop :=
  ∀ (poll : CopPoll) (c : Coproc), c.atBoundary = false →
    (c.advance poll).cur = c.cur
    ∧ ((c.advance poll).f.toNat * 1024 + (c.advance poll).r.toNat * 64 + (c.advance poll).p.toNat
        = (c.f.toNat * 1024 + c.r.toNat * 64 + c.p.toNat + 1) % 65536)
    ∧ ((c.advance poll).atBoundary = true ↔
        (c.f.toNat * 1024 + c.r.toNat * 64 + c.p.toNat = 65535
          ∨ (poll = .frame ∧ (c.f.toNat * 1024 + c.r.toNat * 64 + c.p.toNat) % 1024 = 1023)))

/-- 44_consumer.md R233, R235, R237: at a boundary COP adopts the sbank it loads from `readyBank` when it differs from its
own, stores it to `startBank`, starts at frame 0, and counts the traversal the boundary ends. Only those two words of
memory change. The model's readings: a boundary ends a traversal when the cursor is (0, 0, 0) (log 20); the value loaded is
the latest `readyBank`, and the load acquires every released store (log 7). -/
def Obligations.PollSwitches : Prop :=
  ∀ (s : State) (b : Sbank), s.cfg.cop = .contract → s.cop.atBoundary = true → s.bases.ok = true →
    s.readyBank = sbankWord b → b ≠ s.cop.cur →
    ∃ t, exec .copPoll s = .next t
      ∧ t = { s with
          mem := t.mem
          vis := s.vis.map Visibility.acquire
          cop := { s.cop with cur := b, f := 0#6, r := 0#4, p := 0#6, atBoundary := false } }
      ∧ t.startBank = sbankWord b ∧ t.readyBank = s.readyBank
      ∧ t.frameCount = (if s.cop.f = 0#6 ∧ s.cop.r = 0#4 ∧ s.cop.p = 0#6 then s.frameCount + 1#32 else s.frameCount)
      ∧ ∀ a, (a < s.bases.cbBase.toNat + 0x08 ∨ s.bases.cbBase.toNat + 0x0C ≤ a) →
          (a < s.bases.cbBase.toNat + 0x10 ∨ s.bases.cbBase.toNat + 0x14 ≤ a) → t.mem.read a = s.mem.read a

/-- 44_consumer.md R233, R234, R237: when the value loaded is its own sbank COP stores nothing to `startBank` and replays on;
the traversal the boundary ends is counted. The readings of log 20 and log 7 are those of PollSwitches. -/
def Obligations.PollReplays : Prop :=
  ∀ s : State, s.cfg.cop = .contract → s.cop.atBoundary = true → s.bases.ok = true →
    s.readyBank = sbankWord s.cop.cur →
    ∃ t, exec .copPoll s = .next t
      ∧ t = { s with
          mem := t.mem, vis := s.vis.map Visibility.acquire, cop := { s.cop with atBoundary := false } }
      ∧ t.startBank = s.startBank ∧ t.readyBank = s.readyBank
      ∧ t.frameCount = (if s.cop.f = 0#6 ∧ s.cop.r = 0#4 ∧ s.cop.p = 0#6 then s.frameCount + 1#32 else s.frameCount)
      ∧ ∀ a, (a < s.bases.cbBase.toNat + 0x08 ∨ s.bases.cbBase.toNat + 0x0C ≤ a) → t.mem.read a = s.mem.read a

/-- 44_consumer.md R236: a `readyBank` other than 0 or 1 is a fault when COP loads it: at a boundary, or, for the simulated
coprocessor of R241, at any time; that the simulated one faults too is the model's (log 25). -/
def Obligations.PollFaultsOnIllegalReady : Prop :=
  ∀ s : State, (s.cfg.cop = .contract ∧ s.cop.atBoundary = true ∨ s.cfg.cop = .simulated) → s.bases.ok = true →
    1 < s.readyBank.toNat → exec .copPoll s = .fault .readyBankIllegal

/-- 44_consumer.md R241: the simulated coprocessor copies `readyBank` to `startBank` at any time, without a fetch and
without the counter. -/
def Obligations.SimulatedPollCopies : Prop :=
  ∀ (s : State) (b : Sbank), s.cfg.cop = .simulated → s.bases.ok = true → s.readyBank = sbankWord b →
    ∃ t, exec .copPoll s = .next t ∧ t.startBank = sbankWord b ∧ t.readyBank = s.readyBank
      ∧ t.frameCount = s.frameCount
      ∧ (s.startBank = sbankWord b → t.mem = s.mem ∧ t.cop = s.cop)
      ∧ (s.startBank ≠ sbankWord b → t.cop = { s.cop with cur := b })
      ∧ exec .copFetch s = .next s

/-- 44_consumer.md R238: no step of COP changes a byte of memory outside `frameCount` and `startBank`, or any state of SW or
of the block. -/
def Obligations.CopWritesOnlyItsFields : Prop :=
  ∀ (s t : State) (i : Instr), (i = .copFetch ∨ i = .copPoll) → exec i s = .next t →
    t = { s with mem := t.mem, cop := t.cop, vis := t.vis, draws := t.draws }
    ∧ (i = .copFetch → t.mem = s.mem ∧ t.cop.cur = s.cop.cur)
    ∧ ∀ a, (a < s.bases.cbBase.toNat + 0x08 ∨ s.bases.cbBase.toNat + 0x0C ≤ a) →
        (a < s.bases.cbBase.toNat + 0x10 ∨ s.bases.cbBase.toNat + 0x14 ≤ a) → t.mem.read a = s.mem.read a

/-- 44_consumer.md R240: MON.SAMPLE reads `frameCount` and changes nothing of the block. That the sample is the present count,
where R240 lets it be stale, is the model's (log 7), and so is the field that holds it (log 19). -/
def Obligations.MonSampleReadsCounter : Prop :=
  ∀ s : State, s.bound ≠ none → s.bases.ok = true → exec .monSample s = .next { s with monSample := s.frameCount }

/-- A step its agent does not have in a state leaves the state as it is (the model's reading of `require`, log 12):
COP.FETCH at a boundary and COP.POLL away from one (44_consumer.md R232), MON.SAMPLE before BRIDGE (R240), COP when
there is none (R242). -/
def Obligations.DisabledStepsStandStill : Prop :=
  ∀ s : State,
    (s.cop.atBoundary = true → exec .copFetch s = .next s)
    ∧ (s.cfg.cop = .contract → s.cop.atBoundary = false → exec .copPoll s = .next s)
    ∧ (s.bound = none → exec .monSample s = .next s)
    ∧ (s.cfg.cop = .absent → exec .copFetch s = .next s ∧ exec .copPoll s = .next s)

/-! ### Reset and invariants -/

/-- 10_state.md R52: what reset leaves, for every configuration: every row of its table. COP's bases are the platform's, a field
of the model's own (log 16). -/
def Obligations.ResetValues : Prop :=
  ∀ c : Config,
    let s := State.resetOf c
    s.gammaLut = none ∧ s.ditherLut = none ∧ s.gammaValid = false ∧ s.ditherValid = false ∧ s.cfg = c
    ∧ s.portRead .cmd = 0#32
    ∧ s.portRead .status = (if c.mode = .offline then 0x20#32 else 0x00#32)
    ∧ (∀ r ∈ [PortReg.result, .errCode, .errInfo, .pixW, .pixH, .pixLen, .gammaLo, .gammaHi, .hsState], s.portRead r = 0#32)
    ∧ s.bridged = decide (c.mode = .offline)
    ∧ s.bound = (if c.mode = .offline then some ⟨c.cbAddr, c.fsAddr⟩ else none) ∧ s.copBases = ⟨c.cbAddr, c.fsAddr⟩
    ∧ s.own = .none ∧ s.fatal = false ∧ s.outstanding = none
    ∧ s.readyBank = sbankWord c.initBank ∧ s.startBank = sbankWord c.initBank ∧ s.cop.cur = c.initBank
    ∧ s.frameCount = 0#32 ∧ s.cop.f = 0#6 ∧ s.cop.r = 0#4 ∧ s.cop.p = 0#6 ∧ s.cop.atBoundary = false
    ∧ s.loadCb s.bases cbOffAddr = c.framebufsAddr ∧ s.loadCb s.bases cbOffSize = c.framebufsSize
    ∧ (∀ a, (a < c.cbAddr.toNat ∨ c.cbAddr.toNat + 20 ≤ a) → s.mem.read a = none) ∧ s.pix = []
    ∧ s.vis = ⟨.visible, .visible⟩

/-- 70_reset_and_hazards.md R282: a restart of SW leaves the coprocessor and the shared memory, and returns SW and the block to
their reset values (10_state.md R52). COP goes on with the bases it has (log 16), which are those of a legal state. That the
pending stores, MON's sample, the channel's far end and, offline, the private regions stay, and that an ENCODE b cut short
leaves sbank b any value in pending stores if its descriptor may have passed (41_encoder.md R166), is the model's
reading (log 21). -/
def Obligations.RestartLeavesCoprocessor : Prop :=
  ∀ s : State, ∃ t, stepEvent .restart s = .next t
    ∧ t.cfg = s.cfg ∧ t.cop = s.cop ∧ t.copBases = s.copBases ∧ (s.Legal → t.bases = s.bases) ∧ t.monSample = s.monSample
    ∧ t.own = .none ∧ t.err = false ∧ t.fatal = false ∧ t.outstanding = none ∧ t.gammaLut = none ∧ t.ditherLut = none
    ∧ t.bound = (if s.cfg.mode = .offline then some ⟨s.cfg.cbAddr, s.cfg.fsAddr⟩ else none)
    ∧ t.port = ⟨0#32, 0#32, 0#32, 0#32, 0#32, 0#32, 0#32, 0#32⟩ ∧ t.pix = [] ∧ t.hs = { s.hs with state := .closed }
    ∧ ((∀ b, s.mayStore b = false) → t.mem = s.mem ∧ t.vis = s.vis)
    ∧ ∀ b, s.mayStore b = true →
        t.vis = s.vis.set b .pending
        ∧ ∀ a, (a < s.bases.fsBase.toNat + b.toNat * 1048576 ∨ s.bases.fsBase.toNat + b.toNat * 1048576 + 1048576 ≤ a) →
            t.mem.read a = s.mem.read a

/-- Reset, in a configuration the model accepts, is a legal state. -/
def Obligations.ResetIsLegal : Prop :=
  ∀ c : Config, c.ok = true → (State.resetOf c).Legal

/-- Every step, whatever SW does, keeps a legal state legal: the memories' canonical form, every address inside its space,
what BRIDGE bound aligned, inside the space and apart, the reporting registers' values. -/
def Obligations.StepKeepsLegal : Prop :=
  ∀ s t : State, s.Legal → step s = .next t → t.Legal

/-- Reset, in a configuration the model accepts, satisfies the invariant of the handoff. -/
def Obligations.ResetIsHandoffSafe : Prop :=
  ∀ c : Config, c.ok = true → (State.resetOf c).HandoffSafe

/-- 43_synchronizer.md R215: every step whose command keeps the caller contract keeps the invariant of the handoff: SW holds only
the sbank COP is not replaying, and every fetch is ordered after the stores to its sbank. A BRIDGE is taken to bind the
regions COP already uses (70_reset_and_hazards.md R286). -/
def Obligations.StepKeepsHandoffSafe : Prop :=
  ∀ s t : State, s.HandoffSafe → s.nextKeepsContract → step s = .next t → t.bases = s.bases → t.HandoffSafe

/-- 43_synchronizer.md R201: the transitions of an sbank's protocol state, and the only ones, when SW keeps the caller contract:
FINISH b makes an Idle b Ready; a COP.POLL makes a Ready b Active and in the same step the Active one Idle. -/
def Obligations.BankStateTransitions : Prop :=
  ∀ (s t : State) (b : Sbank), s.HandoffSafe → s.nextKeepsContract → step s = .next t → t.bases = s.bases →
    t.bankState b = s.bankState b
    ∨ (s.bankState b = .idle ∧ t.bankState b = .ready
        ∧ ∃ e rest, s.sched = e :: rest ∧ e.command? = some (.finish b))
    ∨ ((∃ rest, s.sched = .word 0x11#32 :: rest) ∧ s.bankState b = .ready ∧ t.bankState b = .active
        ∧ s.bankState (otherSbank b) = .active ∧ t.bankState (otherSbank b) = .idle)
    ∨ ((∃ rest, s.sched = .word 0x11#32 :: rest) ∧ s.bankState b = .active ∧ t.bankState b = .idle
        ∧ s.bankState (otherSbank b) = .ready ∧ t.bankState (otherSbank b) = .active)

/-- 43_synchronizer.md R216, with every store visible at once (log 7): a WAITREADY that is outstanding completes after the fetches
that are left to COP's next boundary, at most the 65 536 of one traversal, COP's poll there, and its own next step; it
grants the sbank COP is not replaying then. -/
def Obligations.WaitReadyProgress : Prop :=
  ∀ s : State, s.HandoffSafe → s.outstanding = some .waitReady → s.cfg.cop = .contract →
    ∃ n t, n ≤ 65536 ∧ execAll (List.replicate n .copFetch ++ [.copPoll, .waitReady]) s = .next t
      ∧ t.outstanding = none ∧ t.readyBank = t.startBank ∧ t.startBank = sbankWord t.cop.cur
      ∧ t.port.result = sbankWord (otherSbank t.cop.cur) ∧ t.own = .granted (otherSbank t.cop.cur)

/-- 20_memory.md R83, 43_synchronizer.md R212: SW holds sbank b, issues ENCODE b, then FINISH b; COP, at a boundary, polls,
and obtains the value just published (log 7). COP adopts b at frame 0, its fetches from b are free of races, and every word of b is the closed form of the picture encoded. -/
def Obligations.ForwardGuarantee : Prop :=
  ∀ (s : State) (b : Sbank) (bs : Bases) (gamma : GammaLut) (dither : DitherLut), s.HandoffSafe → s.accepts →
    s.own.holds b → s.gammaLut = some gamma → s.ditherLut = some dither → s.bound = some bs →
    s.port.pixW.toNat = s.cfg.width → s.port.pixH.toNat = s.cfg.height →
    s.port.pixLen.toNat = s.cfg.width * s.cfg.height * 4 → s.cfg.wiringOk = true → s.cfg.srcOk = true →
    s.cfg.cop = .contract → s.cop.atBoundary = true →
    ∃ u, execAll [.encodeBank b, .finish b, .copPoll] s = .next u
      ∧ u.cop.cur = b ∧ u.cop.f = 0#6 ∧ u.cop.r = 0#4 ∧ u.cop.p = 0#6 ∧ u.cop.atBoundary = false
      ∧ u.startBank = sbankWord b ∧ u.readyBank = sbankWord b ∧ u.races b = false
      ∧ ∀ f r p g, u.fsWord u.bases b f r p g = EncodeInput.word ⟨s.cfg, gamma, dither⟩ (fun _ a => s.pixByte a) f r p g

/-- 10_state.md R27: from a legal state no step but a restart changes a built table, and none changes the configuration. -/
def Obligations.TablesAndConfigurationImmutable : Prop :=
  ∀ s t : State, s.Legal → step s = .next t →
    t.cfg = s.cfg
    ∧ ((∀ rest, s.sched ≠ .restart :: rest) →
        (∀ g, s.gammaLut = some g → t.gammaLut = some g) ∧ ∀ d, s.ditherLut = some d → t.ditherLut = some d)

/-- 10_state.md R36: each ControlBlock field has one writer. No step but FINISH changes `readyBank`, no step but COP.POLL changes
`startBank` or `frameCount`, and none changes the descriptor; a store an agent asks for outside those is refused
(60_exceptions.md R268; the refusal's name is log 23). -/
def Obligations.ControlBlockSingleWriters : Prop :=
  (∀ s who field v, stepEvent (.cbStore who field v) s = .refused .noSuchStore)
  ∧ ∀ s t : State, s.bases.ok = true → regionsApart s.bases.cbBase s.bases.fsBase = true → step s = .next t → t.bases = s.bases →
    ((∀ e rest, s.sched = e :: rest → ∀ b, e.command? ≠ some (.finish b)) → t.readyBank = s.readyBank)
    ∧ ((∀ rest, s.sched ≠ .word 0x11#32 :: rest) → t.startBank = s.startBank ∧ t.frameCount = s.frameCount)
    ∧ t.loadCb s.bases cbOffAddr = s.loadCb s.bases cbOffAddr ∧ t.loadCb s.bases cbOffSize = s.loadCb s.bases cbOffSize

/-- 20_memory.md R66: only ENCODE b writes sbank b of the Frameset: a step of ENCODE b, or a restart that cuts short
one whose descriptor may have passed (log 21). -/
def Obligations.OnlyEncodeWritesFrameset : Prop :=
  ∀ (s t : State) (b : Sbank), s.bases.ok = true → regionsApart s.bases.cbBase s.bases.fsBase = true → step s = .next t →
    (∀ e rest, s.sched = e :: rest → e.command? ≠ some (.encodeBank b)) →
    (s.mayStore b = true → ∀ rest, s.sched ≠ .restart :: rest) →
    ∀ a, s.bases.fsBase.toNat + b.toNat * 1048576 ≤ a → a < s.bases.fsBase.toNat + b.toNat * 1048576 + 1048576 →
      t.mem.read a = s.mem.read a

/-- 44_consumer.md R242: with no coprocessor a WAITREADY that holds goes on holding whatever steps follow, unless SW restarts. -/
def Obligations.AbsentCoprocessorStuck : Prop :=
  ∀ s t : State, s.cfg.cop = .absent → s.outstanding = some .waitReady → s.readyBank ≠ s.startBank →
    step s = .next t → (∀ rest, s.sched ≠ .restart :: rest) →
    t.outstanding = some .waitReady ∧ t.readyBank = s.readyBank ∧ t.startBank = s.startBank
      ∧ t.own = s.own ∧ t.cfg = s.cfg
end

