-- ==== Sys2Proof/Laws/Decode.lean ====
section
/-!
SUPPORT. The fields of a command word as numbers, and the word a successful decoding came from.
-/

namespace Sys2Proof

/-- The three fields make the word. -/
theorem fields_toNat (w : Word) :
    (opField w).toNat + 256 * (bankField w).toNat + 512 * (zeroField w).toNat = w.toNat := by
  simp only [opField, bankField, zeroField, BitVec.extractLsb'_toNat, Nat.shiftRight_eq_div_pow]
  have := w.isLt
  omega

theorem commandWord_toNat (op : Word) (b : Sbank) (h : op.toNat < 256) :
    (commandWord op b).toNat = op.toNat + 256 * b.toNat := by
  have hb : b = 0#1 ∨ b = 1#1 := by revert b; decide
  unfold commandWord
  rcases hb with rfl | rfl
  · simp
  · rw [BitVec.toNat_or]
    have : (BitVec.setWidth 32 (1#1) <<< 8 : Word).toNat = 256 := by decide
    rw [this, Nat.or_comm, show (256 : Nat) = 2 ^ 8 * 1 from rfl, ← Nat.two_pow_add_eq_or_of_lt (by omega)]
    simp; omega

theorem withoutBank_ok {b : Sbank} {i j : Instr} (h : withoutBank b j = .ok i) : i = j ∧ b = 0#1 := by
  unfold withoutBank at h
  split at h
  · exact ⟨by cases h; rfl, ‹_›⟩
  · cases h

/-- The word of the instruction an `op` and an sbank decode to is that `op` and that sbank. -/
theorem decodeOp_ok {op : Nat} {b : Sbank} {i : Instr} (h : decodeOp op b = .ok i) :
    (encode i).toNat = op + 256 * b.toNat := by
  unfold decodeOp at h
  split at h
  all_goals first
    | (obtain ⟨rfl, rfl⟩ := withoutBank_ok h; rfl)
    | (cases h; exact commandWord_toNat _ _ (by decide))
    | cases h

/-- The decoder in terms of the word's number. -/
theorem decodeWord_eq (w : Word) : decodeWord w =
    if w.toNat / 512 = 0 then decodeOp (w.toNat % 256) (bankField w) else .error .highBitsSet := by
  have h := fields_toNat w
  have h1 := (opField w).isLt
  have h2 := (bankField w).isLt
  unfold decodeWord
  have : (zeroField w = 0#23) ↔ w.toNat / 512 = 0 := by
    rw [← BitVec.toNat_inj]; simp; omega
  simp only [this]
  congr

/-- A command keeps its word: what `E_SEQUENCE` records is what was written. -/
theorem decodeCmd_word {w : Word} {c : Command} (h : decodeCmd w = .ok c) : c.word = w := by
  have hf := fields_toNat w
  have h1 := (opField w).isLt
  have h2 := (bankField w).isLt
  have hc : ∀ {i : Instr}, i.command? = some c → encode i = c.word := by
    intro i hi; cases i <;> cases hi <;> rfl
  unfold decodeCmd at h
  split at h
  · cases h
  · rename_i i hd
    split at h
    · rename_i c' hi
      cases h
      rw [decodeWord_eq] at hd
      split at hd
      · have := decodeOp_ok hd
        rw [hc hi] at this
        apply BitVec.eq_of_toNat_eq
        omega
      · cases hd
    · cases h

end Sys2Proof
end

