-- ==== Sys2Proof/Laws/Memory.lean ====
section
/-!
SUPPORT. What reading a memory after a store gives, and that every store keeps the canonical form.
-/

namespace Sys2Proof.Machine.Memory

@[simp] theorem read_nil (a : Nat) : Memory.read [] a = none := rfl

theorem read_cons (b : Nat) (v : Byte) (m : Memory) (a : Nat) :
    Memory.read ((b, v) :: m) a = if b = a then some v else Memory.read m a := rfl

theorem read_append (m₁ m₂ : Memory) (a : Nat) :
    Memory.read (m₁ ++ m₂) a = (Memory.read m₁ a).or (Memory.read m₂ a) := by
  induction m₁ with
  | nil => simp
  | cons c m ih =>
    obtain ⟨b, v⟩ := c
    simp only [List.cons_append, read_cons, ih]
    split <;> simp

/-- Keeping only the cells whose address passes a test. -/
theorem read_filter (p : Nat → Bool) (m : Memory) (a : Nat) :
    Memory.read (m.filter (fun c => p c.1)) a = if p a then Memory.read m a else none := by
  induction m with
  | nil => simp
  | cons c m ih =>
    obtain ⟨b, v⟩ := c
    by_cases hb : p b
    · rw [List.filter_cons_of_pos (by simpa using hb), read_cons, read_cons, ih]
      by_cases h : b = a
      · subst h; simp [hb]
      · simp [h]
    · rw [List.filter_cons_of_neg (by simpa using hb), read_cons, ih]
      by_cases h : b = a
      · subst h; simp [hb]
      · simp [h]

theorem read_cells (base n : Nat) (f : Nat → Byte) (a : Nat) :
    Memory.read ((List.range n).map (fun i => (base + i, f i))) a
      = if base ≤ a ∧ a < base + n then some (f (a - base)) else none := by
  induction n with
  | zero => simp
  | succ n ih =>
    rw [List.range_succ, List.map_append, read_append, ih]
    simp only [List.map_cons, List.map_nil, read_cons, read_nil]
    by_cases h : base ≤ a ∧ a < base + n
    · simp [h, show a < base + (n + 1) by omega]
    · by_cases h' : base + n = a
      · subst h'; simp
      · have h'' : ¬ (base ≤ a ∧ a < base + (n + 1)) := by omega
        simp [h, h', h'']

/-- One store, one read: the stored bytes read as stored, every other address as before. -/
theorem read_fill (m : Memory) (base n : Nat) (f : Nat → Byte) (a : Nat) :
    Memory.read (m.fill base n f) a = if base ≤ a ∧ a < base + n then some (f (a - base)) else Memory.read m a := by
  unfold Memory.fill
  rw [read_append, read_append, read_cells, read_filter (fun x => decide (x < base)),
    read_filter (fun x => decide (base + n ≤ x))]
  by_cases h : base ≤ a ∧ a < base + n
  · rw [if_pos h, if_pos h]
    simp [show ¬ a < base by omega]
  · rw [if_neg h, if_neg h]
    by_cases h1 : a < base
    · simp [h1, show ¬ base + n ≤ a by omega]
    · simp [h1, show base + n ≤ a by omega]

theorem read_fill_in {m : Memory} {base n : Nat} {f : Nat → Byte} {i : Nat} (h : i < n) :
    Memory.read (m.fill base n f) (base + i) = some (f i) := by
  rw [read_fill, if_pos (by omega)]; congr; omega

theorem read_fill_out {m : Memory} {base n : Nat} {f : Nat → Byte} {a : Nat} (h : a < base ∨ base + n ≤ a) :
    Memory.read (m.fill base n f) a = Memory.read m a := by
  rw [read_fill, if_neg (by omega)]

/-- Every store keeps the canonical form. -/
theorem wf_fill {m : Memory} (h : m.wf) (base n : Nat) (f : Nat → Byte) : (m.fill base n f).wf := by
  unfold Memory.fill Memory.wf
  refine List.pairwise_append.2 ⟨List.pairwise_append.2 ⟨h.sublist List.filter_sublist, ?_, ?_⟩,
    h.sublist List.filter_sublist, ?_⟩
  · rw [List.pairwise_map]
    exact List.pairwise_lt_range.imp (by intro a b hab; simpa using hab)
  · simp only [List.mem_filter, List.mem_map, List.mem_range, decide_eq_true_eq]
    rintro x ⟨-, hx⟩ y ⟨i, -, rfl⟩
    dsimp only; omega
  · simp only [List.mem_append, List.mem_filter, List.mem_map, List.mem_range, decide_eq_true_eq]
    rintro x (⟨-, hx⟩ | ⟨i, hi, rfl⟩) y ⟨-, hy⟩
    · omega
    · dsimp only; omega

theorem wf_storeWord {m : Memory} (h : m.wf) (a : Nat) (v : Word) : (m.storeWord a v).wf := wf_fill h ..

@[simp] theorem wf_nil : Memory.wf [] := List.Pairwise.nil

/-- Every listed address of a store is the store's or was listed. -/
theorem mem_fill {m : Memory} {base n : Nat} {f : Nat → Byte} {c : Host.Cell} (h : c ∈ m.fill base n f) :
    c ∈ m ∨ (base ≤ c.1 ∧ c.1 < base + n) := by
  unfold Memory.fill at h
  simp only [List.mem_append, List.mem_filter, List.mem_map, List.mem_range, decide_eq_true_eq] at h
  obtain (⟨h, -⟩ | ⟨i, hi, rfl⟩) | ⟨h, -⟩ := h
  · exact .inl h
  · exact .inr (by dsimp only; omega)
  · exact .inl h

/-- Storing the same bytes at the same place twice is storing them once. -/
theorem fill_fill (m : Memory) (base n : Nat) (f g : Nat → Byte) :
    (m.fill base n f).fill base n g = m.fill base n g := by
  have low : ∀ l : Memory, (∀ c ∈ l, c.1 < base) → l.filter (fun c => decide (c.1 < base)) = l := by
    intro l hl; exact List.filter_eq_self.2 (by intro c hc; simpa using hl c hc)
  unfold Memory.fill
  simp only [List.filter_append, List.filter_filter, List.append_assoc]
  have h1 : ((List.range n).map (fun i => (base + i, f i))).filter (fun c : Host.Cell => decide (c.1 < base)) = [] := by
    simp [List.filter_eq_nil_iff]
  have h2 : ((List.range n).map (fun i => (base + i, f i))).filter (fun c : Host.Cell => decide (base + n ≤ c.1)) = [] := by
    simp [List.filter_eq_nil_iff]
  have h3 : m.filter (fun c => decide (c.1 < base) && decide (base + n ≤ c.1)) = [] := by
    simp [List.filter_eq_nil_iff]; omega
  have h4 : m.filter (fun c => decide (base + n ≤ c.1) && decide (c.1 < base)) = [] := by
    simp [List.filter_eq_nil_iff]; omega
  simp only [Bool.and_self, h1, h2, h3, h4, List.nil_append]

/-! ### Bytes and words -/

theorem byteAt_fill_in {m : Memory} {base n : Nat} {f free : Nat → Byte} {i : Nat} (h : i < n) :
    (m.fill base n f).byteAt free (base + i) = f i := by
  unfold Memory.byteAt; rw [read_fill_in h]; rfl

theorem byteAt_fill_out {m : Memory} {base n : Nat} {f free : Nat → Byte} {a : Nat} (h : a < base ∨ base + n ≤ a) :
    (m.fill base n f).byteAt free a = m.byteAt free a := by
  unfold Memory.byteAt; rw [read_fill_out h]

theorem byteAt_storeWord_out {m : Memory} {a b : Nat} {v : Word} {free : Nat → Byte} (h : b < a ∨ a + 4 ≤ b) :
    (m.storeWord a v).byteAt free b = m.byteAt free b := byteAt_fill_out h

theorem wordOfBytes_byteOf (v : Word) : wordOfBytes (byteOf v 0) (byteOf v 1) (byteOf v 2) (byteOf v 3) = v := by
  unfold wordOfBytes byteOf
  ext i hi
  simp only [BitVec.getElem_append, BitVec.getElem_extractLsb']
  repeat' split
  all_goals (rw [BitVec.getLsbD_eq_getElem (by omega)]; congr 1; omega)

/-- A load of the word just stored. -/
@[simp] theorem loadWord_storeWord (m : Memory) (free : Nat → Byte) (a : Nat) (v : Word) :
    (m.storeWord a v).loadWord free a = v := by
  unfold Memory.loadWord Memory.storeWord
  have h0 := byteAt_fill_in (m := m) (base := a) (f := byteOf v) (free := free) (show 0 < 4 by omega)
  rw [Nat.add_zero] at h0
  rw [h0, byteAt_fill_in (by omega), byteAt_fill_in (by omega), byteAt_fill_in (by omega), wordOfBytes_byteOf]

/-- A load that no stored byte touches. -/
theorem loadWord_fill_out {m : Memory} {base n : Nat} {f free : Nat → Byte} {a : Nat} (h : a + 4 ≤ base ∨ base + n ≤ a) :
    (m.fill base n f).loadWord free a = m.loadWord free a := by
  unfold Memory.loadWord
  rw [byteAt_fill_out (by omega), byteAt_fill_out (by omega), byteAt_fill_out (by omega), byteAt_fill_out (by omega)]

theorem loadWord_storeWord_out {m : Memory} {a b : Nat} {v : Word} {free : Nat → Byte} (h : b + 4 ≤ a ∨ a + 4 ≤ b) :
    (m.storeWord a v).loadWord free b = m.loadWord free b := loadWord_fill_out h

/-- A load inside the bytes of a store. -/
theorem loadWord_fill_in {m : Memory} {base n : Nat} {f free : Nat → Byte} {i : Nat} (h : i + 4 ≤ n) :
    (m.fill base n f).loadWord free (base + i) = wordOfBytes (f i) (f (i + 1)) (f (i + 2)) (f (i + 3)) := by
  unfold Memory.loadWord
  rw [byteAt_fill_in (by omega), Nat.add_assoc, byteAt_fill_in (by omega), Nat.add_assoc, byteAt_fill_in (by omega),
    Nat.add_assoc, byteAt_fill_in (by omega)]

/-- Memories that read the same at every byte load the same words. -/
theorem loadWord_congr {m m' : Memory} {free : Nat → Byte} {a : Nat}
    (h : ∀ i < 4, m'.byteAt free (a + i) = m.byteAt free (a + i)) : m'.loadWord free a = m.loadWord free a := by
  unfold Memory.loadWord
  have h0 := h 0 (by omega)
  rw [Nat.add_zero] at h0
  rw [h0, h 1 (by omega), h 2 (by omega), h 3 (by omega)]

end Sys2Proof.Machine.Memory
end

