-- ==== Sys2Proof/Laws/State.lean ====
section
/-!
SUPPORT. One lemma per field of State per update of it: what each shared operation writes and what it leaves.
-/

namespace Sys2Proof.Machine.State


/-! ### endCommand -/

@[simp] theorem endCommand_cfg (s : State) : (s.endCommand).cfg = s.cfg := rfl
@[simp] theorem endCommand_gammaLut (s : State) : (s.endCommand).gammaLut = s.gammaLut := rfl
@[simp] theorem endCommand_ditherLut (s : State) : (s.endCommand).ditherLut = s.ditherLut := rfl
@[simp] theorem endCommand_port (s : State) : (s.endCommand).port = s.port := rfl
@[simp] theorem endCommand_err (s : State) : (s.endCommand).err = s.err := rfl
@[simp] theorem endCommand_fatal (s : State) : (s.endCommand).fatal = s.fatal := rfl
@[simp] theorem endCommand_outstanding (s : State) : (s.endCommand).outstanding = none := rfl
@[simp] theorem endCommand_bound (s : State) : (s.endCommand).bound = s.bound := rfl
@[simp] theorem endCommand_own (s : State) : (s.endCommand).own = s.own := rfl
@[simp] theorem endCommand_cop (s : State) : (s.endCommand).cop = s.cop := rfl
@[simp] theorem endCommand_copBases (s : State) : (s.endCommand).copBases = s.copBases := rfl
@[simp] theorem endCommand_mem (s : State) : (s.endCommand).mem = s.mem := rfl
@[simp] theorem endCommand_vis (s : State) : (s.endCommand).vis = s.vis := rfl
@[simp] theorem endCommand_pix (s : State) : (s.endCommand).pix = s.pix := rfl
@[simp] theorem endCommand_hs (s : State) : (s.endCommand).hs = s.hs := rfl
@[simp] theorem endCommand_stale (s : State) : (s.endCommand).stale = [] := rfl
@[simp] theorem endCommand_pixStale (s : State) : (s.endCommand).pixStale = [] := rfl
@[simp] theorem endCommand_portData (s : State) : (s.endCommand).portData = s.portData := rfl
@[simp] theorem endCommand_monSample (s : State) : (s.endCommand).monSample = s.monSample := rfl
@[simp] theorem endCommand_sched (s : State) : (s.endCommand).sched = s.sched := rfl
@[simp] theorem endCommand_draws (s : State) : (s.endCommand).draws = if s.stale.isEmpty && s.pixStale.isEmpty then s.draws else s.draws + 1 := rfl

/-! ### report -/

@[simp] theorem report_cfg (s : State) (e : ErrCode) (info : Word) : (s.report e info).cfg = s.cfg := rfl
@[simp] theorem report_gammaLut (s : State) (e : ErrCode) (info : Word) : (s.report e info).gammaLut = s.gammaLut := rfl
@[simp] theorem report_ditherLut (s : State) (e : ErrCode) (info : Word) : (s.report e info).ditherLut = s.ditherLut := rfl
@[simp] theorem report_port (s : State) (e : ErrCode) (info : Word) : (s.report e info).port = { s.port with errCode := e.code, errInfo := info } := rfl
@[simp] theorem report_err (s : State) (e : ErrCode) (info : Word) : (s.report e info).err = true := rfl
@[simp] theorem report_fatal (s : State) (e : ErrCode) (info : Word) : (s.report e info).fatal = (s.fatal || decide (e.errClass = .fatal)) := rfl
@[simp] theorem report_outstanding (s : State) (e : ErrCode) (info : Word) : (s.report e info).outstanding = none := rfl
@[simp] theorem report_bound (s : State) (e : ErrCode) (info : Word) : (s.report e info).bound = s.bound := rfl
@[simp] theorem report_own (s : State) (e : ErrCode) (info : Word) : (s.report e info).own = s.own := rfl
@[simp] theorem report_cop (s : State) (e : ErrCode) (info : Word) : (s.report e info).cop = s.cop := rfl
@[simp] theorem report_copBases (s : State) (e : ErrCode) (info : Word) : (s.report e info).copBases = s.copBases := rfl
@[simp] theorem report_mem (s : State) (e : ErrCode) (info : Word) : (s.report e info).mem = s.mem := rfl
@[simp] theorem report_vis (s : State) (e : ErrCode) (info : Word) : (s.report e info).vis = s.vis := rfl
@[simp] theorem report_pix (s : State) (e : ErrCode) (info : Word) : (s.report e info).pix = s.pix := rfl
@[simp] theorem report_hs (s : State) (e : ErrCode) (info : Word) : (s.report e info).hs = s.hs := rfl
@[simp] theorem report_stale (s : State) (e : ErrCode) (info : Word) : (s.report e info).stale = [] := rfl
@[simp] theorem report_pixStale (s : State) (e : ErrCode) (info : Word) : (s.report e info).pixStale = [] := rfl
@[simp] theorem report_portData (s : State) (e : ErrCode) (info : Word) : (s.report e info).portData = s.portData := rfl
@[simp] theorem report_monSample (s : State) (e : ErrCode) (info : Word) : (s.report e info).monSample = s.monSample := rfl
@[simp] theorem report_sched (s : State) (e : ErrCode) (info : Word) : (s.report e info).sched = s.sched := rfl
@[simp] theorem report_draws (s : State) (e : ErrCode) (info : Word) : (s.report e info).draws = if s.stale.isEmpty && s.pixStale.isEmpty then s.draws else s.draws + 1 := rfl

/-! ### complete -/

@[simp] theorem complete_cfg (s : State) (x : Word) : (s.complete x).cfg = s.cfg := rfl
@[simp] theorem complete_gammaLut (s : State) (x : Word) : (s.complete x).gammaLut = s.gammaLut := rfl
@[simp] theorem complete_ditherLut (s : State) (x : Word) : (s.complete x).ditherLut = s.ditherLut := rfl
@[simp] theorem complete_port (s : State) (x : Word) : (s.complete x).port = { s.port with result := x, errCode := 0, errInfo := 0 } := rfl
@[simp] theorem complete_err (s : State) (x : Word) : (s.complete x).err = false := rfl
@[simp] theorem complete_fatal (s : State) (x : Word) : (s.complete x).fatal = s.fatal := rfl
@[simp] theorem complete_outstanding (s : State) (x : Word) : (s.complete x).outstanding = none := rfl
@[simp] theorem complete_bound (s : State) (x : Word) : (s.complete x).bound = s.bound := rfl
@[simp] theorem complete_own (s : State) (x : Word) : (s.complete x).own = s.own := rfl
@[simp] theorem complete_cop (s : State) (x : Word) : (s.complete x).cop = s.cop := rfl
@[simp] theorem complete_copBases (s : State) (x : Word) : (s.complete x).copBases = s.copBases := rfl
@[simp] theorem complete_mem (s : State) (x : Word) : (s.complete x).mem = s.mem := rfl
@[simp] theorem complete_vis (s : State) (x : Word) : (s.complete x).vis = s.vis := rfl
@[simp] theorem complete_pix (s : State) (x : Word) : (s.complete x).pix = s.pix := rfl
@[simp] theorem complete_hs (s : State) (x : Word) : (s.complete x).hs = s.hs := rfl
@[simp] theorem complete_stale (s : State) (x : Word) : (s.complete x).stale = [] := rfl
@[simp] theorem complete_pixStale (s : State) (x : Word) : (s.complete x).pixStale = [] := rfl
@[simp] theorem complete_portData (s : State) (x : Word) : (s.complete x).portData = s.portData := rfl
@[simp] theorem complete_monSample (s : State) (x : Word) : (s.complete x).monSample = s.monSample := rfl
@[simp] theorem complete_sched (s : State) (x : Word) : (s.complete x).sched = s.sched := rfl
@[simp] theorem complete_draws (s : State) (x : Word) : (s.complete x).draws = if s.stale.isEmpty && s.pixStale.isEmpty then s.draws else s.draws + 1 := rfl

/-! ### begun -/

@[simp] theorem begun_cfg (s : State) : (s.begun).cfg = s.cfg := rfl
@[simp] theorem begun_gammaLut (s : State) : (s.begun).gammaLut = s.gammaLut := rfl
@[simp] theorem begun_ditherLut (s : State) : (s.begun).ditherLut = s.ditherLut := rfl
@[simp] theorem begun_port (s : State) : (s.begun).port = s.port := rfl
@[simp] theorem begun_err (s : State) : (s.begun).err = false := rfl
@[simp] theorem begun_fatal (s : State) : (s.begun).fatal = s.fatal := rfl
@[simp] theorem begun_outstanding (s : State) : (s.begun).outstanding = s.outstanding := rfl
@[simp] theorem begun_bound (s : State) : (s.begun).bound = s.bound := rfl
@[simp] theorem begun_own (s : State) : (s.begun).own = s.own := rfl
@[simp] theorem begun_cop (s : State) : (s.begun).cop = s.cop := rfl
@[simp] theorem begun_copBases (s : State) : (s.begun).copBases = s.copBases := rfl
@[simp] theorem begun_mem (s : State) : (s.begun).mem = s.mem := rfl
@[simp] theorem begun_vis (s : State) : (s.begun).vis = s.vis := rfl
@[simp] theorem begun_pix (s : State) : (s.begun).pix = s.pix := rfl
@[simp] theorem begun_hs (s : State) : (s.begun).hs = s.hs := rfl
@[simp] theorem begun_stale (s : State) : (s.begun).stale = [] := rfl
@[simp] theorem begun_pixStale (s : State) : (s.begun).pixStale = [] := rfl
@[simp] theorem begun_portData (s : State) : (s.begun).portData = s.portData := rfl
@[simp] theorem begun_monSample (s : State) : (s.begun).monSample = s.monSample := rfl
@[simp] theorem begun_sched (s : State) : (s.begun).sched = s.sched := rfl
@[simp] theorem begun_draws (s : State) : (s.begun).draws = s.draws := rfl

/-! ### issued -/

@[simp] theorem issued_cfg (s : State) (c : Command) : (s.issued c).cfg = s.cfg := rfl
@[simp] theorem issued_gammaLut (s : State) (c : Command) : (s.issued c).gammaLut = s.gammaLut := rfl
@[simp] theorem issued_ditherLut (s : State) (c : Command) : (s.issued c).ditherLut = s.ditherLut := rfl
@[simp] theorem issued_port (s : State) (c : Command) : (s.issued c).port = s.port := rfl
@[simp] theorem issued_err (s : State) (c : Command) : (s.issued c).err = false := rfl
@[simp] theorem issued_fatal (s : State) (c : Command) : (s.issued c).fatal = s.fatal := rfl
@[simp] theorem issued_outstanding (s : State) (c : Command) : (s.issued c).outstanding = some c := rfl
@[simp] theorem issued_bound (s : State) (c : Command) : (s.issued c).bound = s.bound := rfl
@[simp] theorem issued_own (s : State) (c : Command) : (s.issued c).own = s.own := rfl
@[simp] theorem issued_cop (s : State) (c : Command) : (s.issued c).cop = s.cop := rfl
@[simp] theorem issued_copBases (s : State) (c : Command) : (s.issued c).copBases = s.copBases := rfl
@[simp] theorem issued_mem (s : State) (c : Command) : (s.issued c).mem = s.mem := rfl
@[simp] theorem issued_vis (s : State) (c : Command) : (s.issued c).vis = s.vis := rfl
@[simp] theorem issued_pix (s : State) (c : Command) : (s.issued c).pix = s.pix := rfl
@[simp] theorem issued_hs (s : State) (c : Command) : (s.issued c).hs = s.hs := rfl
@[simp] theorem issued_stale (s : State) (c : Command) : (s.issued c).stale = [] := rfl
@[simp] theorem issued_pixStale (s : State) (c : Command) : (s.issued c).pixStale = [] := rfl
@[simp] theorem issued_portData (s : State) (c : Command) : (s.issued c).portData = s.portData := rfl
@[simp] theorem issued_monSample (s : State) (c : Command) : (s.issued c).monSample = s.monSample := rfl
@[simp] theorem issued_sched (s : State) (c : Command) : (s.issued c).sched = s.sched := rfl
@[simp] theorem issued_draws (s : State) (c : Command) : (s.issued c).draws = s.draws := rfl

/-! ### storeCb -/

@[simp] theorem storeCb_cfg (s : State) (bs : Bases) (off : Nat) (v : Word) : (s.storeCb bs off v).cfg = s.cfg := rfl
@[simp] theorem storeCb_gammaLut (s : State) (bs : Bases) (off : Nat) (v : Word) : (s.storeCb bs off v).gammaLut = s.gammaLut := rfl
@[simp] theorem storeCb_ditherLut (s : State) (bs : Bases) (off : Nat) (v : Word) : (s.storeCb bs off v).ditherLut = s.ditherLut := rfl
@[simp] theorem storeCb_port (s : State) (bs : Bases) (off : Nat) (v : Word) : (s.storeCb bs off v).port = s.port := rfl
@[simp] theorem storeCb_err (s : State) (bs : Bases) (off : Nat) (v : Word) : (s.storeCb bs off v).err = s.err := rfl
@[simp] theorem storeCb_fatal (s : State) (bs : Bases) (off : Nat) (v : Word) : (s.storeCb bs off v).fatal = s.fatal := rfl
@[simp] theorem storeCb_outstanding (s : State) (bs : Bases) (off : Nat) (v : Word) : (s.storeCb bs off v).outstanding = s.outstanding := rfl
@[simp] theorem storeCb_bound (s : State) (bs : Bases) (off : Nat) (v : Word) : (s.storeCb bs off v).bound = s.bound := rfl
@[simp] theorem storeCb_own (s : State) (bs : Bases) (off : Nat) (v : Word) : (s.storeCb bs off v).own = s.own := rfl
@[simp] theorem storeCb_cop (s : State) (bs : Bases) (off : Nat) (v : Word) : (s.storeCb bs off v).cop = s.cop := rfl
@[simp] theorem storeCb_copBases (s : State) (bs : Bases) (off : Nat) (v : Word) : (s.storeCb bs off v).copBases = s.copBases := rfl
@[simp] theorem storeCb_mem (s : State) (bs : Bases) (off : Nat) (v : Word) : (s.storeCb bs off v).mem = s.mem.storeWord (bs.cbBase.toNat + off) v := rfl
@[simp] theorem storeCb_vis (s : State) (bs : Bases) (off : Nat) (v : Word) : (s.storeCb bs off v).vis = s.vis := rfl
@[simp] theorem storeCb_pix (s : State) (bs : Bases) (off : Nat) (v : Word) : (s.storeCb bs off v).pix = s.pix := rfl
@[simp] theorem storeCb_hs (s : State) (bs : Bases) (off : Nat) (v : Word) : (s.storeCb bs off v).hs = s.hs := rfl
@[simp] theorem storeCb_stale (s : State) (bs : Bases) (off : Nat) (v : Word) : (s.storeCb bs off v).stale = s.stale := rfl
@[simp] theorem storeCb_pixStale (s : State) (bs : Bases) (off : Nat) (v : Word) : (s.storeCb bs off v).pixStale = s.pixStale := rfl
@[simp] theorem storeCb_portData (s : State) (bs : Bases) (off : Nat) (v : Word) : (s.storeCb bs off v).portData = s.portData := rfl
@[simp] theorem storeCb_monSample (s : State) (bs : Bases) (off : Nat) (v : Word) : (s.storeCb bs off v).monSample = s.monSample := rfl
@[simp] theorem storeCb_sched (s : State) (bs : Bases) (off : Nat) (v : Word) : (s.storeCb bs off v).sched = s.sched := rfl
@[simp] theorem storeCb_draws (s : State) (bs : Bases) (off : Nat) (v : Word) : (s.storeCb bs off v).draws = s.draws := rfl

/-! ### releaseStores -/

@[simp] theorem releaseStores_cfg (s : State) : (s.releaseStores).cfg = s.cfg := rfl
@[simp] theorem releaseStores_gammaLut (s : State) : (s.releaseStores).gammaLut = s.gammaLut := rfl
@[simp] theorem releaseStores_ditherLut (s : State) : (s.releaseStores).ditherLut = s.ditherLut := rfl
@[simp] theorem releaseStores_port (s : State) : (s.releaseStores).port = s.port := rfl
@[simp] theorem releaseStores_err (s : State) : (s.releaseStores).err = s.err := rfl
@[simp] theorem releaseStores_fatal (s : State) : (s.releaseStores).fatal = s.fatal := rfl
@[simp] theorem releaseStores_outstanding (s : State) : (s.releaseStores).outstanding = s.outstanding := rfl
@[simp] theorem releaseStores_bound (s : State) : (s.releaseStores).bound = s.bound := rfl
@[simp] theorem releaseStores_own (s : State) : (s.releaseStores).own = s.own := rfl
@[simp] theorem releaseStores_cop (s : State) : (s.releaseStores).cop = s.cop := rfl
@[simp] theorem releaseStores_copBases (s : State) : (s.releaseStores).copBases = s.copBases := rfl
@[simp] theorem releaseStores_mem (s : State) : (s.releaseStores).mem = s.mem := rfl
@[simp] theorem releaseStores_vis (s : State) : (s.releaseStores).vis = s.vis.map Visibility.release := rfl
@[simp] theorem releaseStores_pix (s : State) : (s.releaseStores).pix = s.pix := rfl
@[simp] theorem releaseStores_hs (s : State) : (s.releaseStores).hs = s.hs := rfl
@[simp] theorem releaseStores_stale (s : State) : (s.releaseStores).stale = s.stale := rfl
@[simp] theorem releaseStores_pixStale (s : State) : (s.releaseStores).pixStale = s.pixStale := rfl
@[simp] theorem releaseStores_portData (s : State) : (s.releaseStores).portData = s.portData := rfl
@[simp] theorem releaseStores_monSample (s : State) : (s.releaseStores).monSample = s.monSample := rfl
@[simp] theorem releaseStores_sched (s : State) : (s.releaseStores).sched = s.sched := rfl
@[simp] theorem releaseStores_draws (s : State) : (s.releaseStores).draws = s.draws := rfl

/-! ### acquireStores -/

@[simp] theorem acquireStores_cfg (s : State) : (s.acquireStores).cfg = s.cfg := rfl
@[simp] theorem acquireStores_gammaLut (s : State) : (s.acquireStores).gammaLut = s.gammaLut := rfl
@[simp] theorem acquireStores_ditherLut (s : State) : (s.acquireStores).ditherLut = s.ditherLut := rfl
@[simp] theorem acquireStores_port (s : State) : (s.acquireStores).port = s.port := rfl
@[simp] theorem acquireStores_err (s : State) : (s.acquireStores).err = s.err := rfl
@[simp] theorem acquireStores_fatal (s : State) : (s.acquireStores).fatal = s.fatal := rfl
@[simp] theorem acquireStores_outstanding (s : State) : (s.acquireStores).outstanding = s.outstanding := rfl
@[simp] theorem acquireStores_bound (s : State) : (s.acquireStores).bound = s.bound := rfl
@[simp] theorem acquireStores_own (s : State) : (s.acquireStores).own = s.own := rfl
@[simp] theorem acquireStores_cop (s : State) : (s.acquireStores).cop = s.cop := rfl
@[simp] theorem acquireStores_copBases (s : State) : (s.acquireStores).copBases = s.copBases := rfl
@[simp] theorem acquireStores_mem (s : State) : (s.acquireStores).mem = s.mem := rfl
@[simp] theorem acquireStores_vis (s : State) : (s.acquireStores).vis = s.vis.map Visibility.acquire := rfl
@[simp] theorem acquireStores_pix (s : State) : (s.acquireStores).pix = s.pix := rfl
@[simp] theorem acquireStores_hs (s : State) : (s.acquireStores).hs = s.hs := rfl
@[simp] theorem acquireStores_stale (s : State) : (s.acquireStores).stale = s.stale := rfl
@[simp] theorem acquireStores_pixStale (s : State) : (s.acquireStores).pixStale = s.pixStale := rfl
@[simp] theorem acquireStores_portData (s : State) : (s.acquireStores).portData = s.portData := rfl
@[simp] theorem acquireStores_monSample (s : State) : (s.acquireStores).monSample = s.monSample := rfl
@[simp] theorem acquireStores_sched (s : State) : (s.acquireStores).sched = s.sched := rfl
@[simp] theorem acquireStores_draws (s : State) : (s.acquireStores).draws = s.draws := rfl

/-! ### setHs -/

@[simp] theorem setHs_cfg (s : State) (h : HsState) : (s.setHs h).cfg = s.cfg := rfl
@[simp] theorem setHs_gammaLut (s : State) (h : HsState) : (s.setHs h).gammaLut = s.gammaLut := rfl
@[simp] theorem setHs_ditherLut (s : State) (h : HsState) : (s.setHs h).ditherLut = s.ditherLut := rfl
@[simp] theorem setHs_port (s : State) (h : HsState) : (s.setHs h).port = s.port := rfl
@[simp] theorem setHs_err (s : State) (h : HsState) : (s.setHs h).err = s.err := rfl
@[simp] theorem setHs_fatal (s : State) (h : HsState) : (s.setHs h).fatal = s.fatal := rfl
@[simp] theorem setHs_outstanding (s : State) (h : HsState) : (s.setHs h).outstanding = s.outstanding := rfl
@[simp] theorem setHs_bound (s : State) (h : HsState) : (s.setHs h).bound = s.bound := rfl
@[simp] theorem setHs_own (s : State) (h : HsState) : (s.setHs h).own = s.own := rfl
@[simp] theorem setHs_cop (s : State) (h : HsState) : (s.setHs h).cop = s.cop := rfl
@[simp] theorem setHs_copBases (s : State) (h : HsState) : (s.setHs h).copBases = s.copBases := rfl
@[simp] theorem setHs_mem (s : State) (h : HsState) : (s.setHs h).mem = s.mem := rfl
@[simp] theorem setHs_vis (s : State) (h : HsState) : (s.setHs h).vis = s.vis := rfl
@[simp] theorem setHs_pix (s : State) (h : HsState) : (s.setHs h).pix = s.pix := rfl
@[simp] theorem setHs_hs (s : State) (h : HsState) : (s.setHs h).hs = { s.hs with state := h } := rfl
@[simp] theorem setHs_stale (s : State) (h : HsState) : (s.setHs h).stale = s.stale := rfl
@[simp] theorem setHs_pixStale (s : State) (h : HsState) : (s.setHs h).pixStale = s.pixStale := rfl
@[simp] theorem setHs_portData (s : State) (h : HsState) : (s.setHs h).portData = s.portData := rfl
@[simp] theorem setHs_monSample (s : State) (h : HsState) : (s.setHs h).monSample = s.monSample := rfl
@[simp] theorem setHs_sched (s : State) (h : HsState) : (s.setHs h).sched = s.sched := rfl
@[simp] theorem setHs_draws (s : State) (h : HsState) : (s.setHs h).draws = s.draws := rfl

/-! ### storeSchedule -/

@[simp] theorem storeSchedule_cfg (s : State) (bs : Bases) (b : Sbank) (e : EncodeInput) : (s.storeSchedule bs b e).cfg = s.cfg := rfl
@[simp] theorem storeSchedule_gammaLut (s : State) (bs : Bases) (b : Sbank) (e : EncodeInput) : (s.storeSchedule bs b e).gammaLut = s.gammaLut := rfl
@[simp] theorem storeSchedule_ditherLut (s : State) (bs : Bases) (b : Sbank) (e : EncodeInput) : (s.storeSchedule bs b e).ditherLut = s.ditherLut := rfl
@[simp] theorem storeSchedule_port (s : State) (bs : Bases) (b : Sbank) (e : EncodeInput) : (s.storeSchedule bs b e).port = s.port := rfl
@[simp] theorem storeSchedule_err (s : State) (bs : Bases) (b : Sbank) (e : EncodeInput) : (s.storeSchedule bs b e).err = s.err := rfl
@[simp] theorem storeSchedule_fatal (s : State) (bs : Bases) (b : Sbank) (e : EncodeInput) : (s.storeSchedule bs b e).fatal = s.fatal := rfl
@[simp] theorem storeSchedule_outstanding (s : State) (bs : Bases) (b : Sbank) (e : EncodeInput) : (s.storeSchedule bs b e).outstanding = s.outstanding := rfl
@[simp] theorem storeSchedule_bound (s : State) (bs : Bases) (b : Sbank) (e : EncodeInput) : (s.storeSchedule bs b e).bound = s.bound := rfl
@[simp] theorem storeSchedule_own (s : State) (bs : Bases) (b : Sbank) (e : EncodeInput) : (s.storeSchedule bs b e).own = s.own := rfl
@[simp] theorem storeSchedule_cop (s : State) (bs : Bases) (b : Sbank) (e : EncodeInput) : (s.storeSchedule bs b e).cop = s.cop := rfl
@[simp] theorem storeSchedule_copBases (s : State) (bs : Bases) (b : Sbank) (e : EncodeInput) : (s.storeSchedule bs b e).copBases = s.copBases := rfl
@[simp] theorem storeSchedule_mem (s : State) (bs : Bases) (b : Sbank) (e : EncodeInput) : (s.storeSchedule bs b e).mem = s.mem.fill (bs.sbankBase b) schedBytes (e.byte s.pixOperand) := rfl
@[simp] theorem storeSchedule_vis (s : State) (bs : Bases) (b : Sbank) (e : EncodeInput) : (s.storeSchedule bs b e).vis = s.vis.set b .pending := rfl
@[simp] theorem storeSchedule_pix (s : State) (bs : Bases) (b : Sbank) (e : EncodeInput) : (s.storeSchedule bs b e).pix = s.pix := rfl
@[simp] theorem storeSchedule_hs (s : State) (bs : Bases) (b : Sbank) (e : EncodeInput) : (s.storeSchedule bs b e).hs = s.hs := rfl
@[simp] theorem storeSchedule_stale (s : State) (bs : Bases) (b : Sbank) (e : EncodeInput) : (s.storeSchedule bs b e).stale = s.stale := rfl
@[simp] theorem storeSchedule_pixStale (s : State) (bs : Bases) (b : Sbank) (e : EncodeInput) : (s.storeSchedule bs b e).pixStale = s.pixStale := rfl
@[simp] theorem storeSchedule_portData (s : State) (bs : Bases) (b : Sbank) (e : EncodeInput) : (s.storeSchedule bs b e).portData = s.portData := rfl
@[simp] theorem storeSchedule_monSample (s : State) (bs : Bases) (b : Sbank) (e : EncodeInput) : (s.storeSchedule bs b e).monSample = s.monSample := rfl
@[simp] theorem storeSchedule_sched (s : State) (bs : Bases) (b : Sbank) (e : EncodeInput) : (s.storeSchedule bs b e).sched = s.sched := rfl
@[simp] theorem storeSchedule_draws (s : State) (bs : Bases) (b : Sbank) (e : EncodeInput) : (s.storeSchedule bs b e).draws = s.draws := rfl

/-! ### switchTo -/

@[simp] theorem switchTo_cfg (s : State) (bs : Bases) (n : Word) : (s.switchTo bs n).cfg = s.cfg := rfl
@[simp] theorem switchTo_gammaLut (s : State) (bs : Bases) (n : Word) : (s.switchTo bs n).gammaLut = s.gammaLut := rfl
@[simp] theorem switchTo_ditherLut (s : State) (bs : Bases) (n : Word) : (s.switchTo bs n).ditherLut = s.ditherLut := rfl
@[simp] theorem switchTo_port (s : State) (bs : Bases) (n : Word) : (s.switchTo bs n).port = s.port := rfl
@[simp] theorem switchTo_err (s : State) (bs : Bases) (n : Word) : (s.switchTo bs n).err = s.err := rfl
@[simp] theorem switchTo_fatal (s : State) (bs : Bases) (n : Word) : (s.switchTo bs n).fatal = s.fatal := rfl
@[simp] theorem switchTo_outstanding (s : State) (bs : Bases) (n : Word) : (s.switchTo bs n).outstanding = s.outstanding := rfl
@[simp] theorem switchTo_bound (s : State) (bs : Bases) (n : Word) : (s.switchTo bs n).bound = s.bound := rfl
@[simp] theorem switchTo_own (s : State) (bs : Bases) (n : Word) : (s.switchTo bs n).own = s.own := rfl
@[simp] theorem switchTo_cop (s : State) (bs : Bases) (n : Word) : (s.switchTo bs n).cop = { s.cop with cur := n.setWidth 1, f := 0#6, r := 0#4, p := 0#6, atBoundary := false } := rfl
@[simp] theorem switchTo_copBases (s : State) (bs : Bases) (n : Word) : (s.switchTo bs n).copBases = s.copBases := rfl
@[simp] theorem switchTo_mem (s : State) (bs : Bases) (n : Word) : (s.switchTo bs n).mem = s.mem.storeWord (bs.cbBase.toNat + cbOffStart) n := rfl
@[simp] theorem switchTo_vis (s : State) (bs : Bases) (n : Word) : (s.switchTo bs n).vis = s.vis := rfl
@[simp] theorem switchTo_pix (s : State) (bs : Bases) (n : Word) : (s.switchTo bs n).pix = s.pix := rfl
@[simp] theorem switchTo_hs (s : State) (bs : Bases) (n : Word) : (s.switchTo bs n).hs = s.hs := rfl
@[simp] theorem switchTo_stale (s : State) (bs : Bases) (n : Word) : (s.switchTo bs n).stale = s.stale := rfl
@[simp] theorem switchTo_pixStale (s : State) (bs : Bases) (n : Word) : (s.switchTo bs n).pixStale = s.pixStale := rfl
@[simp] theorem switchTo_portData (s : State) (bs : Bases) (n : Word) : (s.switchTo bs n).portData = s.portData := rfl
@[simp] theorem switchTo_monSample (s : State) (bs : Bases) (n : Word) : (s.switchTo bs n).monSample = s.monSample := rfl
@[simp] theorem switchTo_sched (s : State) (bs : Bases) (n : Word) : (s.switchTo bs n).sched = s.sched := rfl
@[simp] theorem switchTo_draws (s : State) (bs : Bases) (n : Word) : (s.switchTo bs n).draws = s.draws := rfl

/-! ### replayOn -/

@[simp] theorem replayOn_cfg (s : State) : (s.replayOn).cfg = s.cfg := rfl
@[simp] theorem replayOn_gammaLut (s : State) : (s.replayOn).gammaLut = s.gammaLut := rfl
@[simp] theorem replayOn_ditherLut (s : State) : (s.replayOn).ditherLut = s.ditherLut := rfl
@[simp] theorem replayOn_port (s : State) : (s.replayOn).port = s.port := rfl
@[simp] theorem replayOn_err (s : State) : (s.replayOn).err = s.err := rfl
@[simp] theorem replayOn_fatal (s : State) : (s.replayOn).fatal = s.fatal := rfl
@[simp] theorem replayOn_outstanding (s : State) : (s.replayOn).outstanding = s.outstanding := rfl
@[simp] theorem replayOn_bound (s : State) : (s.replayOn).bound = s.bound := rfl
@[simp] theorem replayOn_own (s : State) : (s.replayOn).own = s.own := rfl
@[simp] theorem replayOn_cop (s : State) : (s.replayOn).cop = { s.cop with atBoundary := false } := rfl
@[simp] theorem replayOn_copBases (s : State) : (s.replayOn).copBases = s.copBases := rfl
@[simp] theorem replayOn_mem (s : State) : (s.replayOn).mem = s.mem := rfl
@[simp] theorem replayOn_vis (s : State) : (s.replayOn).vis = s.vis := rfl
@[simp] theorem replayOn_pix (s : State) : (s.replayOn).pix = s.pix := rfl
@[simp] theorem replayOn_hs (s : State) : (s.replayOn).hs = s.hs := rfl
@[simp] theorem replayOn_stale (s : State) : (s.replayOn).stale = s.stale := rfl
@[simp] theorem replayOn_pixStale (s : State) : (s.replayOn).pixStale = s.pixStale := rfl
@[simp] theorem replayOn_portData (s : State) : (s.replayOn).portData = s.portData := rfl
@[simp] theorem replayOn_monSample (s : State) : (s.replayOn).monSample = s.monSample := rfl
@[simp] theorem replayOn_sched (s : State) : (s.replayOn).sched = s.sched := rfl
@[simp] theorem replayOn_draws (s : State) : (s.replayOn).draws = s.draws := rfl

/-! ### setOperand -/

@[simp] theorem setOperand_cfg (s : State) (r : PortReg) (p : HostPort) : (s.setOperand r p).cfg = s.cfg := rfl
@[simp] theorem setOperand_gammaLut (s : State) (r : PortReg) (p : HostPort) : (s.setOperand r p).gammaLut = s.gammaLut := rfl
@[simp] theorem setOperand_ditherLut (s : State) (r : PortReg) (p : HostPort) : (s.setOperand r p).ditherLut = s.ditherLut := rfl
@[simp] theorem setOperand_port (s : State) (r : PortReg) (p : HostPort) : (s.setOperand r p).port = p := rfl
@[simp] theorem setOperand_err (s : State) (r : PortReg) (p : HostPort) : (s.setOperand r p).err = s.err := rfl
@[simp] theorem setOperand_fatal (s : State) (r : PortReg) (p : HostPort) : (s.setOperand r p).fatal = s.fatal := rfl
@[simp] theorem setOperand_outstanding (s : State) (r : PortReg) (p : HostPort) : (s.setOperand r p).outstanding = s.outstanding := rfl
@[simp] theorem setOperand_bound (s : State) (r : PortReg) (p : HostPort) : (s.setOperand r p).bound = s.bound := rfl
@[simp] theorem setOperand_own (s : State) (r : PortReg) (p : HostPort) : (s.setOperand r p).own = s.own := rfl
@[simp] theorem setOperand_cop (s : State) (r : PortReg) (p : HostPort) : (s.setOperand r p).cop = s.cop := rfl
@[simp] theorem setOperand_copBases (s : State) (r : PortReg) (p : HostPort) : (s.setOperand r p).copBases = s.copBases := rfl
@[simp] theorem setOperand_mem (s : State) (r : PortReg) (p : HostPort) : (s.setOperand r p).mem = s.mem := rfl
@[simp] theorem setOperand_vis (s : State) (r : PortReg) (p : HostPort) : (s.setOperand r p).vis = s.vis := rfl
@[simp] theorem setOperand_pix (s : State) (r : PortReg) (p : HostPort) : (s.setOperand r p).pix = s.pix := rfl
@[simp] theorem setOperand_hs (s : State) (r : PortReg) (p : HostPort) : (s.setOperand r p).hs = s.hs := rfl
@[simp] theorem setOperand_stale (s : State) (r : PortReg) (p : HostPort) : (s.setOperand r p).stale = if s.busy then (r, s.portRead r) :: s.stale else s.stale := rfl
@[simp] theorem setOperand_pixStale (s : State) (r : PortReg) (p : HostPort) : (s.setOperand r p).pixStale = s.pixStale := rfl
@[simp] theorem setOperand_portData (s : State) (r : PortReg) (p : HostPort) : (s.setOperand r p).portData = s.portData := rfl
@[simp] theorem setOperand_monSample (s : State) (r : PortReg) (p : HostPort) : (s.setOperand r p).monSample = s.monSample := rfl
@[simp] theorem setOperand_sched (s : State) (r : PortReg) (p : HostPort) : (s.setOperand r p).sched = s.sched := rfl
@[simp] theorem setOperand_draws (s : State) (r : PortReg) (p : HostPort) : (s.setOperand r p).draws = s.draws := rfl

/-! ### abandonEncode -/

@[simp] theorem abandonEncode_cfg (s : State) (b : Sbank) : (s.abandonEncode b).cfg = s.cfg := rfl
@[simp] theorem abandonEncode_gammaLut (s : State) (b : Sbank) : (s.abandonEncode b).gammaLut = s.gammaLut := rfl
@[simp] theorem abandonEncode_ditherLut (s : State) (b : Sbank) : (s.abandonEncode b).ditherLut = s.ditherLut := rfl
@[simp] theorem abandonEncode_port (s : State) (b : Sbank) : (s.abandonEncode b).port = s.port := rfl
@[simp] theorem abandonEncode_err (s : State) (b : Sbank) : (s.abandonEncode b).err = s.err := rfl
@[simp] theorem abandonEncode_fatal (s : State) (b : Sbank) : (s.abandonEncode b).fatal = s.fatal := rfl
@[simp] theorem abandonEncode_outstanding (s : State) (b : Sbank) : (s.abandonEncode b).outstanding = s.outstanding := rfl
@[simp] theorem abandonEncode_bound (s : State) (b : Sbank) : (s.abandonEncode b).bound = s.bound := rfl
@[simp] theorem abandonEncode_own (s : State) (b : Sbank) : (s.abandonEncode b).own = s.own := rfl
@[simp] theorem abandonEncode_cop (s : State) (b : Sbank) : (s.abandonEncode b).cop = s.cop := rfl
@[simp] theorem abandonEncode_copBases (s : State) (b : Sbank) : (s.abandonEncode b).copBases = s.copBases := rfl
@[simp] theorem abandonEncode_mem (s : State) (b : Sbank) : (s.abandonEncode b).mem = s.mem.fill (s.bases.sbankBase b) schedBytes (Config.abandonedByte s.draws) := rfl
@[simp] theorem abandonEncode_vis (s : State) (b : Sbank) : (s.abandonEncode b).vis = s.vis.set b .pending := rfl
@[simp] theorem abandonEncode_pix (s : State) (b : Sbank) : (s.abandonEncode b).pix = s.pix := rfl
@[simp] theorem abandonEncode_hs (s : State) (b : Sbank) : (s.abandonEncode b).hs = s.hs := rfl
@[simp] theorem abandonEncode_stale (s : State) (b : Sbank) : (s.abandonEncode b).stale = s.stale := rfl
@[simp] theorem abandonEncode_pixStale (s : State) (b : Sbank) : (s.abandonEncode b).pixStale = s.pixStale := rfl
@[simp] theorem abandonEncode_portData (s : State) (b : Sbank) : (s.abandonEncode b).portData = s.portData := rfl
@[simp] theorem abandonEncode_monSample (s : State) (b : Sbank) : (s.abandonEncode b).monSample = s.monSample := rfl
@[simp] theorem abandonEncode_sched (s : State) (b : Sbank) : (s.abandonEncode b).sched = s.sched := rfl
@[simp] theorem abandonEncode_draws (s : State) (b : Sbank) : (s.abandonEncode b).draws = s.draws + 1 := rfl

/-! ### restart -/

@[simp] theorem restart_cfg (s : State) : (s.restart).cfg = s.cfg := rfl
@[simp] theorem restart_gammaLut (s : State) : (s.restart).gammaLut = none := rfl
@[simp] theorem restart_ditherLut (s : State) : (s.restart).ditherLut = none := rfl
@[simp] theorem restart_port (s : State) : (s.restart).port = ⟨0, 0, 0, 0, 0, 0, 0, 0⟩ := rfl
@[simp] theorem restart_err (s : State) : (s.restart).err = false := rfl
@[simp] theorem restart_fatal (s : State) : (s.restart).fatal = false := rfl
@[simp] theorem restart_outstanding (s : State) : (s.restart).outstanding = none := rfl
@[simp] theorem restart_bound (s : State) : (s.restart).bound = if s.cfg.mode = .offline then some ⟨s.cfg.cbAddr, s.cfg.fsAddr⟩ else none := rfl
@[simp] theorem restart_own (s : State) : (s.restart).own = .none := rfl
@[simp] theorem restart_cop (s : State) : (s.restart).cop = s.cop := rfl
@[simp] theorem restart_copBases (s : State) : (s.restart).copBases = s.copBases := rfl
@[simp] theorem restart_mem (s : State) : (s.restart).mem = s.cutShort.mem := rfl
@[simp] theorem restart_vis (s : State) : (s.restart).vis = s.cutShort.vis := rfl
@[simp] theorem restart_pix (s : State) : (s.restart).pix = [] := rfl
@[simp] theorem restart_hs (s : State) : (s.restart).hs = { s.hs with state := .closed } := rfl
@[simp] theorem restart_stale (s : State) : (s.restart).stale = [] := rfl
@[simp] theorem restart_pixStale (s : State) : (s.restart).pixStale = [] := rfl
@[simp] theorem restart_portData (s : State) : (s.restart).portData = 0 := rfl
@[simp] theorem restart_monSample (s : State) : (s.restart).monSample = s.monSample := rfl
@[simp] theorem restart_sched (s : State) : (s.restart).sched = s.sched := rfl
@[simp] theorem restart_draws (s : State) : (s.restart).draws = s.cutShort.draws := rfl

/-! ### cutShort and hsFresh -/

theorem mayStore_iff {s : State} {b : Sbank} :
    s.mayStore b = true ↔ s.outstanding = some (.encodeBank b) ∧ s.descriptorMayMatch = true := by
  simp [State.mayStore]

theorem mayStore_of_not_encode {s : State} {b : Sbank} (h : s.outstanding ≠ some (.encodeBank b)) : s.mayStore b = false := by
  simp [State.mayStore, h]

theorem cutShort_encode {s : State} {b : Sbank} (h : s.mayStore b = true) : s.cutShort = s.abandonEncode b := by
  obtain ⟨ho, hd⟩ := mayStore_iff.1 h
  unfold State.cutShort
  rw [ho]
  exact if_pos hd

theorem cutShort_of_not_encode {s : State} (h : ∀ b, s.mayStore b = false) : s.cutShort = s := by
  unfold State.cutShort
  split
  · rename_i b ho
    exact if_neg fun hd => by have := h b; rw [mayStore_iff.2 ⟨ho, hd⟩] at this; cases this
  all_goals rfl

/-- What a restart finds: no ENCODE that may have stored, or one. -/
theorem cutShort_cases (s : State) :
    (s.cutShort = s ∧ ∀ b, s.mayStore b = false)
    ∨ ∃ b, s.mayStore b = true ∧ s.cutShort = s.abandonEncode b := by
  by_cases h : ∃ b, s.mayStore b = true
  · obtain ⟨b, h⟩ := h
    exact .inr ⟨b, h, cutShort_encode h⟩
  · have h' : ∀ b, s.mayStore b = false := fun b => by simpa using fun hb => h ⟨b, hb⟩
    exact .inl ⟨cutShort_of_not_encode h', h'⟩

/-- Everything a new stream of the device can leave. -/
theorem hsFresh_cases (s : State) : s.hsFresh = s ∨ ∃ hs, s.hsFresh = { s with hs := hs } := by
  unfold State.hsFresh; split <;> [exact .inl rfl; exact .inr ⟨_, rfl⟩]


/-! ### countTraversal -/

@[simp] theorem countTraversal_cfg (s : State) (bs : Bases) : (s.countTraversal bs).cfg = s.cfg := by
  unfold State.countTraversal; split <;> rfl
@[simp] theorem countTraversal_gammaLut (s : State) (bs : Bases) : (s.countTraversal bs).gammaLut = s.gammaLut := by
  unfold State.countTraversal; split <;> rfl
@[simp] theorem countTraversal_ditherLut (s : State) (bs : Bases) : (s.countTraversal bs).ditherLut = s.ditherLut := by
  unfold State.countTraversal; split <;> rfl
@[simp] theorem countTraversal_port (s : State) (bs : Bases) : (s.countTraversal bs).port = s.port := by
  unfold State.countTraversal; split <;> rfl
@[simp] theorem countTraversal_err (s : State) (bs : Bases) : (s.countTraversal bs).err = s.err := by
  unfold State.countTraversal; split <;> rfl
@[simp] theorem countTraversal_fatal (s : State) (bs : Bases) : (s.countTraversal bs).fatal = s.fatal := by
  unfold State.countTraversal; split <;> rfl
@[simp] theorem countTraversal_outstanding (s : State) (bs : Bases) : (s.countTraversal bs).outstanding = s.outstanding := by
  unfold State.countTraversal; split <;> rfl
@[simp] theorem countTraversal_bound (s : State) (bs : Bases) : (s.countTraversal bs).bound = s.bound := by
  unfold State.countTraversal; split <;> rfl
@[simp] theorem countTraversal_own (s : State) (bs : Bases) : (s.countTraversal bs).own = s.own := by
  unfold State.countTraversal; split <;> rfl
@[simp] theorem countTraversal_cop (s : State) (bs : Bases) : (s.countTraversal bs).cop = s.cop := by
  unfold State.countTraversal; split <;> rfl
@[simp] theorem countTraversal_copBases (s : State) (bs : Bases) : (s.countTraversal bs).copBases = s.copBases := by
  unfold State.countTraversal; split <;> rfl
@[simp] theorem countTraversal_vis (s : State) (bs : Bases) : (s.countTraversal bs).vis = s.vis := by
  unfold State.countTraversal; split <;> rfl
@[simp] theorem countTraversal_pix (s : State) (bs : Bases) : (s.countTraversal bs).pix = s.pix := by
  unfold State.countTraversal; split <;> rfl
@[simp] theorem countTraversal_hs (s : State) (bs : Bases) : (s.countTraversal bs).hs = s.hs := by
  unfold State.countTraversal; split <;> rfl
@[simp] theorem countTraversal_stale (s : State) (bs : Bases) : (s.countTraversal bs).stale = s.stale := by
  unfold State.countTraversal; split <;> rfl
@[simp] theorem countTraversal_pixStale (s : State) (bs : Bases) : (s.countTraversal bs).pixStale = s.pixStale := by
  unfold State.countTraversal; split <;> rfl
@[simp] theorem countTraversal_portData (s : State) (bs : Bases) : (s.countTraversal bs).portData = s.portData := by
  unfold State.countTraversal; split <;> rfl
@[simp] theorem countTraversal_monSample (s : State) (bs : Bases) : (s.countTraversal bs).monSample = s.monSample := by
  unfold State.countTraversal; split <;> rfl
@[simp] theorem countTraversal_sched (s : State) (bs : Bases) : (s.countTraversal bs).sched = s.sched := by
  unfold State.countTraversal; split <;> rfl
@[simp] theorem countTraversal_draws (s : State) (bs : Bases) : (s.countTraversal bs).draws = s.draws := by
  unfold State.countTraversal; split <;> rfl

theorem countTraversal_mem (s : State) (bs : Bases) :
    (s.countTraversal bs).mem = if s.cop.endsTraversal then
      s.mem.storeWord (bs.cbBase.toNat + cbOffCount) (s.loadCb bs cbOffCount + 1#32) else s.mem := by
  unfold State.countTraversal; split <;> rfl

/-! ### Reset -/

@[simp] theorem resetOf_cfg (c : Config) : (State.resetOf c).cfg = c := rfl
@[simp] theorem resetOf_gammaLut (c : Config) : (State.resetOf c).gammaLut = none := rfl
@[simp] theorem resetOf_ditherLut (c : Config) : (State.resetOf c).ditherLut = none := rfl
@[simp] theorem resetOf_port (c : Config) : (State.resetOf c).port = ⟨0, 0, 0, 0, 0, 0, 0, 0⟩ := rfl
@[simp] theorem resetOf_err (c : Config) : (State.resetOf c).err = false := rfl
@[simp] theorem resetOf_fatal (c : Config) : (State.resetOf c).fatal = false := rfl
@[simp] theorem resetOf_outstanding (c : Config) : (State.resetOf c).outstanding = none := rfl
@[simp] theorem resetOf_bound (c : Config) : (State.resetOf c).bound = if c.mode = .offline then some ⟨c.cbAddr, c.fsAddr⟩ else none := rfl
@[simp] theorem resetOf_own (c : Config) : (State.resetOf c).own = .none := rfl
@[simp] theorem resetOf_cop (c : Config) : (State.resetOf c).cop = ⟨c.initBank, 0, 0, 0, false,
      ⟨Config.resetPins 0, Config.resetPins 1, Config.resetPins 2, Config.resetPins 3⟩⟩ := rfl
@[simp] theorem resetOf_copBases (c : Config) : (State.resetOf c).copBases = ⟨c.cbAddr, c.fsAddr⟩ := rfl
@[simp] theorem resetOf_mem (c : Config) : (State.resetOf c).mem = resetControlBlock c := rfl
@[simp] theorem resetOf_vis (c : Config) : (State.resetOf c).vis = ⟨.visible, .visible⟩ := rfl
@[simp] theorem resetOf_pix (c : Config) : (State.resetOf c).pix = [] := rfl
@[simp] theorem resetOf_hs (c : Config) : (State.resetOf c).hs = ⟨.closed, true, c.payload.length, [], [], false⟩ := rfl
@[simp] theorem resetOf_stale (c : Config) : (State.resetOf c).stale = [] := rfl
@[simp] theorem resetOf_pixStale (c : Config) : (State.resetOf c).pixStale = [] := rfl
@[simp] theorem resetOf_portData (c : Config) : (State.resetOf c).portData = 0 := rfl
@[simp] theorem resetOf_monSample (c : Config) : (State.resetOf c).monSample = 0 := rfl
@[simp] theorem resetOf_sched (c : Config) : (State.resetOf c).sched = [] := rfl
@[simp] theorem resetOf_draws (c : Config) : (State.resetOf c).draws = 0 := rfl

end Sys2Proof.Machine.State
end

