-- ==== Sys2Proof/Laws/Ops.lean ====
section
/-!
SUPPORT. What each shared operation can do, said once: the views after an update, the shared-memory guard, raising an
error, the life of a command, the visibility of stores, and the arithmetic of sbanks.
-/

namespace Sys2Proof.Machine

/-! ### Sbanks -/

@[simp] theorem otherSbank_otherSbank (b : Sbank) : otherSbank (otherSbank b) = b := by
  revert b; decide

theorem otherSbank_ne (b : Sbank) : otherSbank b ≠ b := by
  revert b; decide

theorem eq_otherSbank_of_ne {a b : Sbank} (h : a ≠ b) : a = otherSbank b := by
  revert a b; decide

@[simp] theorem sbankWord_inj {a b : Sbank} : sbankWord a = sbankWord b ↔ a = b := by
  revert a b; decide

theorem sbankWord_toNat_le (b : Sbank) : (sbankWord b).toNat ≤ 1 := by
  revert b; decide

@[simp] theorem setWidth_sbankWord (b : Sbank) : (sbankWord b).setWidth 1 = b := by
  revert b; decide

/-- A legal field value is the zero-extension of its low bit. -/
theorem sbankWord_setWidth {w : Word} (h : w.toNat ≤ 1) : sbankWord (w.setWidth 1) = w := by
  apply BitVec.eq_of_toNat_eq
  simp only [sbankWord, BitVec.toNat_setWidth]
  omega

@[simp] theorem grantOf_sbankWord (b : Sbank) : grantOf (sbankWord b) = otherSbank b := by simp [grantOf]

theorem sbank_toNat_le (b : Sbank) : b.toNat ≤ 1 := by
  have := b.isLt; omega

/-! ### One value per sbank -/

@[simp] theorem PerSbank.get_set_self {α : Type} (v : PerSbank α) (b : Sbank) (x : α) : (v.set b x).get b = x := by
  unfold PerSbank.get PerSbank.set; split <;> rfl

theorem PerSbank.get_set_ne {α : Type} (v : PerSbank α) {a b : Sbank} (x : α) (h : a ≠ b) : (v.set b x).get a = v.get a := by
  unfold PerSbank.get PerSbank.set
  by_cases hb : b = 0#1
  · subst hb; rw [if_neg h, if_neg h]; rfl
  · have ha : a = 0#1 := by revert a b; decide
    subst ha; rw [if_pos rfl, if_pos rfl, if_neg hb]

@[simp] theorem PerSbank.get_map {α : Type} (v : PerSbank α) (f : α → α) (b : Sbank) : (v.map f).get b = f (v.get b) := by
  unfold PerSbank.get PerSbank.map; split <;> rfl

@[simp] theorem Visibility.release_ne_pending (v : Visibility) : v.release ≠ .pending := by cases v <;> decide

@[simp] theorem Visibility.release_eq_visible (v : Visibility) : v.release = .visible ↔ v = .visible := by
  cases v <;> decide

@[simp] theorem Visibility.acquire_eq_pending (v : Visibility) : v.acquire = .pending ↔ v = .pending := by
  cases v <;> decide

@[simp] theorem Visibility.acquire_visible : Visibility.acquire .visible = .visible := rfl

theorem Visibility.acquire_eq_visible (v : Visibility) : v.acquire = .visible ↔ v ≠ .pending := by
  cases v <;> decide

/-! ### Views -/

theorem State.busy_iff (s : State) : s.busy = true ↔ s.outstanding ≠ none := by
  unfold State.busy; cases s.outstanding <;> simp

theorem State.not_busy_iff (s : State) : s.busy = false ↔ s.outstanding = none := by
  unfold State.busy; cases s.outstanding <;> simp

/-- An update that keeps COP's bases and what BRIDGE bound keeps the bases. -/
theorem State.bases_congr {s t : State} (hc : t.copBases = s.copBases) (hb : t.bound = s.bound) : t.bases = s.bases := by
  unfold State.bases; rw [hc, hb]

/-- An update that keeps the memory keeps every load. -/
theorem State.loadCb_congr {s t : State} (h : t.mem = s.mem) (bs : Bases) (off : Nat) :
    t.loadCb bs off = s.loadCb bs off := by
  unfold State.loadCb State.loadWord; rw [h]

theorem State.bases_of_bound {s : State} {bs : Bases} (h : s.bound = some bs) : s.bases = bs := by
  unfold State.bases; rw [h]; rfl

/-! ### The shared memory -/

theorem State.onShared_ok {s : State} (h : s.bases.ok = true) (k : Bases → Out) : s.onShared k = k s.bases := if_pos h

/-- Everything a guarded access can do when it goes on. -/
theorem State.onShared_next {s t : State} {k : Bases → Out} (h : s.onShared k = .next t) :
    s.bases.ok = true ∧ k s.bases = .next t := by
  unfold State.onShared at h
  split at h
  · exact ⟨‹_›, h⟩
  · cases h

theorem regionOk_iff (base : Word) (n : Nat) :
    regionOk base n = true ↔ base.toNat % 4 = 0 ∧ base.toNat + n ≤ 2 ^ 32 := by
  simp [regionOk]

theorem Bases.ok_iff (bs : Bases) :
    bs.ok = true ↔ (bs.cbBase.toNat % 4 = 0 ∧ bs.cbBase.toNat + 20 ≤ 2 ^ 32)
      ∧ (bs.fsBase.toNat % 4 = 0 ∧ bs.fsBase.toNat + 2097152 ≤ 2 ^ 32) := by
  simp [Bases.ok, regionOk_iff, cbBytes, framesetBytes]

theorem regionsApart_iff (cb fs : Word) :
    regionsApart cb fs = true ↔ cb.toNat + 20 ≤ fs.toNat ∨ fs.toNat + 2097152 ≤ cb.toNat := by
  unfold regionsApart
  rw [Bool.or_eq_true, decide_eq_true_iff, decide_eq_true_iff]
  rfl

@[simp] theorem State.loadCb_storeCb_self (s : State) (bs : Bases) (off : Nat) (v : Word) :
    (s.storeCb bs off v).loadCb bs off = v := by
  simp [State.loadCb, State.loadWord]

/-- A store of one ControlBlock field leaves the others. -/
theorem State.loadCb_storeCb_ne (s : State) (bs : Bases) {off off' : Nat} (v : Word) (h : off' + 4 ≤ off ∨ off + 4 ≤ off') :
    (s.storeCb bs off v).loadCb bs off' = s.loadCb bs off' := by
  unfold State.loadCb State.loadWord
  rw [State.storeCb_mem, Memory.loadWord_storeWord_out (by omega)]

/-- A sbank ENCODE writes lies inside the Frameset. -/
theorem Bases.sbankBase_range (bs : Bases) (b : Sbank) :
    bs.fsBase.toNat ≤ bs.sbankBase b ∧ bs.sbankBase b + 1048576 ≤ bs.fsBase.toNat + 2097152 := by
  have := sbank_toNat_le b
  unfold Bases.sbankBase schedBytes
  omega

/-- A store into a sbank of the Frameset leaves the ControlBlock, where the two regions are apart. -/
theorem Memory.loadCb_fill_sbank {m : Memory} {bs : Bases} (h : regionsApart bs.cbBase bs.fsBase = true) (b : Sbank)
    (f : Nat → Byte) {off : Nat} (ho : off + 4 ≤ 20) :
    (m.fill (bs.sbankBase b) schedBytes f).loadWord Config.resetByte (bs.cbBase.toNat + off)
      = m.loadWord Config.resetByte (bs.cbBase.toNat + off) := by
  have h1 := bs.sbankBase_range b
  have h2 := (regionsApart_iff _ _).1 h
  have h3 : schedBytes = 1048576 := rfl
  exact Memory.loadWord_fill_out (by omega)

/-- A store of a ControlBlock field leaves every byte of the Frameset, where the two regions are apart. -/
theorem Memory.read_storeCb {m : Memory} {bs : Bases} (h : regionsApart bs.cbBase bs.fsBase = true) {off : Nat}
    (ho : off + 4 ≤ 20) (v : Word) {a : Nat} (h1 : bs.fsBase.toNat ≤ a) (h2 : a < bs.fsBase.toNat + 2097152) :
    (m.storeWord (bs.cbBase.toNat + off) v).read a = m.read a := by
  have h3 := (regionsApart_iff _ _).1 h
  exact Memory.read_fill_out (by omega)

/-! ### Raising an error -/

theorem State.raise_of_ne_fault {s : State} {e : ErrCode} {info : Word} (h : e.errClass ≠ .fault) :
    s.raise e info = .next (s.report e info) := by
  unfold State.raise
  cases he : e.errClass <;> simp_all

/-- Everything raising an error can do when the machine goes on. -/
theorem State.raise_next {s t : State} {e : ErrCode} {info : Word} (h : s.raise e info = .next t) :
    t = s.report e info ∧ e.errClass ≠ .fault := by
  unfold State.raise at h
  cases he : e.errClass <;> simp_all

@[simp] theorem State.raise_sequence (s : State) (w : Word) : s.raise .sequence w = .next (s.report .sequence w) := rfl
@[simp] theorem State.raise_badCommand (s : State) (w : Word) : s.raise .badCommand w = .next (s.report .badCommand w) := rfl
@[simp] theorem State.raise_badDimensions (s : State) (w : Word) :
    s.raise .badDimensions w = .next (s.report .badDimensions w) := rfl
@[simp] theorem State.raise_layoutMismatch (s : State) (w : Word) :
    s.raise .layoutMismatch w = .next (s.report .layoutMismatch w) := rfl
@[simp] theorem State.raise_map (s : State) (w : Word) : s.raise .map w = .next (s.report .map w) := rfl
@[simp] theorem State.raise_hsOpen (s : State) (w : Word) : s.raise .hsOpen w = .next (s.report .hsOpen w) := rfl
@[simp] theorem State.raise_hsShortWrite (s : State) (w : Word) :
    s.raise .hsShortWrite w = .next (s.report .hsShortWrite w) := rfl
@[simp] theorem State.raise_hsShortRead (s : State) (w : Word) :
    s.raise .hsShortRead w = .next (s.report .hsShortRead w) := rfl
@[simp] theorem State.raise_defect (s : State) (w : Word) : s.raise .defect w = .fault .defect := rfl

/-! ### The life of a command -/

theorem State.command_resume {s : State} {c : Command} {body : State → Out} (h : s.outstanding = some c) :
    s.command c body = body s := if_pos h

theorem State.command_ignored {s : State} {c : Command} {body : State → Out} (hb : s.busy = true)
    (h : s.outstanding ≠ some c) : s.command c body = .next s := by
  unfold State.command; rw [if_neg h, if_pos hb]

theorem State.command_issue {s : State} {c : Command} {body : State → Out} (hb : s.busy = false)
    (hf : s.fatal = false) (ha : s.allows c = true) : s.command c body = body (s.issued c) := by
  unfold State.command
  rw [if_neg (by rw [(s.not_busy_iff).1 hb]; simp), if_neg (by simp [hb]), if_neg (by simp [hf]), if_pos ha]

theorem State.command_rejected {s : State} {c : Command} {body : State → Out} (hb : s.busy = false)
    (h : s.fatal = true ∨ s.allows c = false) :
    s.command c body = .next ((s.issued c).report .sequence c.word) := by
  unfold State.command
  rw [if_neg (by rw [(s.not_busy_iff).1 hb]; simp), if_neg (by simp [hb])]
  split
  · rfl
  · rcases h with h | h
    · contradiction
    · rw [if_neg (by simp [h])]; rfl

/-- Everything SW's step of a command can do when the machine goes on. -/
theorem State.command_next {s t : State} {c : Command} {body : State → Out} (h : s.command c body = .next t) :
    (s.outstanding = some c ∧ body s = .next t)
    ∨ (s.busy = true ∧ s.outstanding ≠ some c ∧ t = s)
    ∨ (s.busy = false ∧ (s.fatal = true ∨ s.allows c = false) ∧ t = (s.issued c).report .sequence c.word)
    ∨ (s.busy = false ∧ s.fatal = false ∧ s.allows c = true ∧ body (s.issued c) = .next t) := by
  by_cases ho : s.outstanding = some c
  · exact .inl ⟨ho, by rwa [State.command_resume ho] at h⟩
  · cases hb : s.busy
    · by_cases hr : s.fatal = true ∨ s.allows c = false
      · rw [State.command_rejected hb hr] at h
        exact .inr (.inr (.inl ⟨rfl, hr, by cases h; rfl⟩))
      · have hf : s.fatal = false := by cases hx : s.fatal <;> simp_all
        have ha : s.allows c = true := by cases hx : s.allows c <;> simp_all
        rw [State.command_issue hb hf ha] at h
        exact .inr (.inr (.inr ⟨rfl, hf, ha, h⟩))
    · rw [State.command_ignored hb ho] at h
      exact .inr (.inl ⟨rfl, ho, by cases h; rfl⟩)

/-- Everything a write of an illegal word can do. -/
theorem State.badCommand_next {s t : State} {w : Word} (h : s.badCommand w = .next t) :
    (s.busy = true ∧ t = s) ∨ (s.busy = false ∧ s.fatal = true ∧ t = s.begun.report .sequence w)
    ∨ (s.busy = false ∧ s.fatal = false ∧ t = s.begun.report .badCommand w) := by
  unfold State.badCommand at h
  split at h
  · exact .inl ⟨‹_›, by cases h; rfl⟩
  · split at h
    · exact .inr (.inl ⟨by simpa using ‹¬ s.busy = true›, ‹_›, by cases h; rfl⟩)
    · exact .inr (.inr ⟨by simpa using ‹¬ s.busy = true›, by simpa using ‹¬ s.fatal = true›, by cases h; rfl⟩)

/-! ### Operands -/

@[simp] theorem pick_nil {α : Type} (x : α) (n : Nat) : pick x [] n = x := rfl

/-- A pick is the present value or one of the old ones. -/
theorem mem_pick {α : Type} (now : α) (old : List α) (n : Nat) : pick now old n = now ∨ pick now old n ∈ old := by
  cases old with
  | nil => exact .inl rfl
  | cons x xs =>
    have h : n % (xs.length + 2) < (now :: x :: xs).length := Nat.mod_lt _ (by omega)
    refine List.mem_cons.1 ?_
    unfold pick
    dsimp only
    rw [List.getD_eq_getElem _ _ h]
    exact List.getElem_mem h

theorem mem_staleOf {κ α : Type} [DecidableEq κ] {k : κ} {l : List (κ × α)} {v : α} : v ∈ staleOf k l ↔ (k, v) ∈ l := by
  simp [staleOf]

@[simp] theorem staleOf_nil {κ α : Type} [DecidableEq κ] (k : κ) : staleOf k ([] : List (κ × α)) = [] := rfl

theorem State.portOperand_fresh {s : State} (h : s.stale = []) (r : PortReg) : s.portOperand r = s.portRead r := by
  unfold State.portOperand; rw [h]; rfl

theorem State.recordedLength_fresh {s : State} (h : s.stale = []) : s.recordedLength = s.port.pixLen := by
  unfold State.recordedLength; rw [h]; rfl

theorem State.pixOperand_fresh {s : State} (h : s.pixStale = []) (key a : Nat) : s.pixOperand key a = s.pixByte a := by
  unfold State.pixOperand; rw [h]; rfl

/-- Right after its issue a command reads its operands as they stand. -/
@[simp] theorem State.portOperand_issued (s : State) (c : Command) (r : PortReg) :
    (s.issued c).portOperand r = (s.issued c).portRead r := State.portOperand_fresh rfl r

@[simp] theorem State.pixOperand_issued (s : State) (c : Command) (key a : Nat) :
    (s.issued c).pixOperand key a = s.pixByte a := State.pixOperand_fresh rfl key a

end Sys2Proof.Machine
end

