-- ==== Sys2Proof/Laws/Meanings.lean ====
section
/-!
SUPPORT. What each meaning's own part can do when the machine goes on, said once per meaning.
-/

namespace Sys2Proof.Machine

/-! ### The tables -/

theorem ditherSound_holds : ditherSound = true := by decide +kernel

theorem bodyBuildGamma_next {s t : State} (h : bodyBuildGamma s = .next t) :
    gammaInDomain s.gammaOperand = true
      ∧ t = { s.complete 0#32 with gammaLut := some (gammaEntries s.cfg s.gammaOperand) } := by
  unfold bodyBuildGamma at h
  split at h
  · exact ⟨‹_›, by cases h; rfl⟩
  · cases h

theorem bodyBuildDither_eq (s : State) :
    bodyBuildDither s = .next { s.complete 0#32 with ditherLut := some ditherEntries } := by
  unfold bodyBuildDither; rw [if_pos ditherSound_holds]

/-! ### ENCODE -/

theorem bodyEncode_none {b : Sbank} {s : State} (h : s.gammaLut = none ∨ s.ditherLut = none) :
    bodyEncode b s = .next (s.report .sequence (Command.encodeBank b).word) := by
  unfold bodyEncode
  split
  · simp_all
  · rfl

theorem bodyEncode_some {b : Sbank} {s : State} {gamma : GammaLut} {dither : DitherLut} (hg : s.gammaLut = some gamma)
    (hd : s.ditherLut = some dither) : bodyEncode b s =
      if dimensionsMatch s.cfg (s.portOperand .pixW) (s.portOperand .pixH) (s.portOperand .pixLen) then
        if s.cfg.wiringOk && s.cfg.srcOk then
          s.onShared (fun bs =>
            .next { (s.storeSchedule bs b ⟨s.cfg, gamma, dither⟩).complete 0#32 with own := s.own.afterEncode b })
        else .fault .defect
      else .next (s.report .badDimensions s.recordedLength) := by
  unfold bodyEncode; rw [hg, hd]; rfl

theorem bodyEncode_next {b : Sbank} {s t : State} (h : bodyEncode b s = .next t) :
    (∃ gamma dither, s.gammaLut = some gamma ∧ s.ditherLut = some dither ∧ s.bases.ok = true
        ∧ t = { (s.storeSchedule s.bases b ⟨s.cfg, gamma, dither⟩).complete 0#32 with own := s.own.afterEncode b })
    ∨ t = s.report .badDimensions s.recordedLength
    ∨ t = s.report .sequence (Command.encodeBank b).word := by
  unfold bodyEncode at h
  split at h
  · rename_i gamma dither hg hd
    split at h
    · split at h
      · obtain ⟨hok, h⟩ := State.onShared_next h
        exact .inl ⟨gamma, dither, hg, hd, hok, by cases h; rfl⟩
      · cases h
    · exact .inr (.inl (by cases h; rfl))
  · exact .inr (.inr (by cases h; rfl))

/-! ### BRIDGE -/

/-- What BRIDGE leaves alone in every outcome: it writes the channel, the bases and the reporting registers only. -/
structure BridgeFrame (s t : State) : Prop where
  cfg : t.cfg = s.cfg
  gammaLut : t.gammaLut = s.gammaLut
  ditherLut : t.ditherLut = s.ditherLut
  own : t.own = s.own
  cop : t.cop = s.cop
  mem : t.mem = s.mem
  vis : t.vis = s.vis
  pix : t.pix = s.pix
  portData : t.portData = s.portData
  monSample : t.monSample = s.monSample
  sched : t.sched = s.sched
  result : t.port.result = s.port.result ∨ t.port.result = 0
  errCode : t.port.errCode = s.port.errCode ∨ t.port.errCode.toNat ≤ 9
  fatal : s.fatal = true → t.fatal = true
  outstanding : t.outstanding = none ∨ (t.outstanding = s.outstanding ∧ t.bound = s.bound ∧ t.fatal = s.fatal)
  bound : (t.bound = s.bound ∧ t.copBases = s.copBases)
    ∨ ∃ bs : Bases, t.bound = some bs ∧ t.copBases = bs ∧ bs.ok = true ∧ regionsApart bs.cbBase bs.fsBase = true

theorem ErrCode.code_toNat_le (e : ErrCode) : e.code.toNat ≤ 9 := by cases e <;> decide

theorem BridgeFrame.report (s : State) (hs : Channel) (e : ErrCode) (info : Word) :
    BridgeFrame s (State.report { s with hs := hs } e info) :=
  { cfg := rfl, gammaLut := rfl, ditherLut := rfl, own := rfl, cop := rfl, mem := rfl, vis := rfl, pix := rfl,
    portData := rfl, monSample := rfl, sched := rfl, result := .inl rfl,
    errCode := .inr (e.code_toNat_le),
    fatal := by intro h; simp [h],
    outstanding := .inl rfl, bound := .inl ⟨rfl, rfl⟩ }

theorem bridgeBind_next {a : Word} {s t : State} {hs : Channel} (h : bridgeBind a { s with hs := hs } = .next t) :
    BridgeFrame s t := by
  unfold bridgeBind at h
  dsimp only at h
  split at h
  · split at h
    · split at h
      · split at h
        · cases h
          refine { cfg := rfl, gammaLut := rfl, ditherLut := rfl, own := rfl, cop := rfl, mem := rfl, vis := rfl, pix := rfl,
                   portData := rfl, monSample := rfl, sched := rfl, result := .inr rfl,
                   errCode := .inr (Nat.zero_le 9), fatal := fun h => h,
                   outstanding := .inl rfl, bound := .inr ⟨_, rfl, rfl, ?_, ‹_›⟩ }
          unfold Bases.ok
          simp [*]
        · cases h
      · cases h; exact .report ..
    · cases h; exact .report ..
  · cases h; exact .report ..

theorem bridgeRead_next {s t : State} {hs : Channel} (h : bridgeRead { s with hs := hs } = .next t) : BridgeFrame s t := by
  unfold bridgeRead at h
  dsimp only at h
  split at h
  · exact bridgeBind_next h
  · split at h
    · cases h; exact .report ..
    · cases h
      exact { cfg := rfl, gammaLut := rfl, ditherLut := rfl, own := rfl, cop := rfl, mem := rfl, vis := rfl, pix := rfl,
              portData := rfl, monSample := rfl, sched := rfl, result := .inl rfl, errCode := .inl rfl,
              fatal := fun h => h, outstanding := .inr ⟨rfl, rfl, rfl⟩, bound := .inl ⟨rfl, rfl⟩ }

theorem bodyBridge_next {s t : State} (h : bodyBridge s = .next t) : BridgeFrame s t := by
  unfold bodyBridge at h
  split at h
  · exact bridgeRead_next (hs := s.hs) h
  · unfold bridgeSend at h
    split at h
    · dsimp only at h
      split at h
      · cases h; exact .report ..
      · exact bridgeRead_next h
    · cases h; exact .report ..

/-- A channel that opens and takes the whole payload brings BRIDGE to its read. -/
theorem bridgeSend_sends {s : State} (ho : s.hs.opens = true) (ha : s.cfg.payload.length ≤ s.hs.accepts) :
    bridgeSend s
      = bridgeRead { s with hs := { s.hs with state := .sent, sentOut := s.hs.sentOut ++ s.cfg.payload } } := by
  unfold bridgeSend
  rw [if_pos ho]
  dsimp only
  rw [Nat.min_eq_right ha, if_neg (Nat.lt_irrefl _), List.take_length]
  rfl

/-- The read holds while fewer than four bytes have arrived and the channel has not ended. -/
theorem bridgeRead_holds {s : State} (hl : s.hs.inbox.length < 4) (he : s.hs.ended = false) : bridgeRead s = .next s := by
  unfold bridgeRead
  split
  · rename_i h
    rw [h] at hl
    simp only [List.length_cons] at hl
    omega
  · rw [if_neg (by rw [he]; decide)]

/-! ### WAITREADY and FINISH -/

theorem bodyWaitReady_next {s t : State} (h : bodyWaitReady s = .next t) :
    s.bases.ok = true
    ∧ ((s.readyBank = s.startBank
          ∧ t = { s.complete (sbankWord (grantOf s.readyBank)) with own := .granted (grantOf s.readyBank) })
      ∨ (s.readyBank ≠ s.startBank ∧ t = s)) := by
  obtain ⟨hok, h⟩ := State.onShared_next h
  refine ⟨hok, ?_⟩
  dsimp only at h
  split at h
  · exact .inl ⟨‹_›, by cases h; rfl⟩
  · exact .inr ⟨‹_›, by cases h; rfl⟩

theorem bodyFinish_next {b : Sbank} {s t : State} (h : bodyFinish b s = .next t) :
    s.bases.ok = true
    ∧ t = { ((s.releaseStores).storeCb s.bases cbOffReady (sbankWord b)).complete 0#32 with own := .none } := by
  obtain ⟨hok, h⟩ := State.onShared_next h
  exact ⟨hok, by cases h; rfl⟩

/-! ### COP and MON -/

theorem execCopFetch_next {s t : State} (h : execCopFetch s = .next t) :
    t = s ∨ (s.cfg.cop = .contract ∧ s.cop.atBoundary = false ∧ s.bases.ok = true
      ∧ t = { s with
          cop := { s.cop.advance s.cfg.copPoll with pins := s.fetchWords s.bases }
          draws := if s.races s.cop.cur then s.draws + 1 else s.draws }) := by
  unfold execCopFetch at h
  split at h
  · obtain ⟨hok, h⟩ := State.onShared_next h
    exact .inr ⟨by tauto, by tauto, hok, by cases h; rfl⟩
  · exact .inl (by cases h; rfl)

/-- A boundary's count leaves the two handoff fields. -/
theorem countTraversal_loadCb (s : State) (bs : Bases) {off : Nat} (h : off + 4 ≤ cbOffCount ∨ cbOffCount + 4 ≤ off) :
    (s.countTraversal bs).loadCb bs off = s.loadCb bs off := by
  unfold State.countTraversal
  split
  · exact State.loadCb_storeCb_ne s bs _ h
  · rfl

/-- The counter after a boundary's count. -/
theorem countTraversal_count (s : State) (bs : Bases) : (s.countTraversal bs).loadCb bs cbOffCount
    = if s.cop.f = 0#6 ∧ s.cop.r = 0#4 ∧ s.cop.p = 0#6 then s.loadCb bs cbOffCount + 1#32 else s.loadCb bs cbOffCount := by
  unfold State.countTraversal Coproc.endsTraversal
  by_cases h : s.cop.f = 0#6 ∧ s.cop.r = 0#4 ∧ s.cop.p = 0#6
  · rw [if_pos (by simp [h]), if_pos h, State.loadCb_storeCb_self]
  · rw [if_neg (by simpa [and_assoc] using h), if_neg h]

/-- A boundary's count writes `frameCount` only. -/
theorem countTraversal_read (s : State) (bs : Bases) {a : Nat} (h : a < bs.cbBase.toNat + 0x08 ∨ bs.cbBase.toNat + 0x0C ≤ a) :
    (s.countTraversal bs).mem.read a = s.mem.read a := by
  unfold State.countTraversal
  split
  · exact Memory.read_fill_out h
  · rfl

theorem pollContract_next {s t : State} (h : pollContract s = .next t) :
    t = s ∨ (s.cop.atBoundary = true ∧ s.bases.ok = true ∧ s.readyBank.toNat ≤ 1
      ∧ ((s.readyBank ≠ sbankWord s.cop.cur
            ∧ t = ((s.countTraversal s.bases).acquireStores).switchTo s.bases s.readyBank)
        ∨ (s.readyBank = sbankWord s.cop.cur ∧ t = ((s.countTraversal s.bases).acquireStores).replayOn))) := by
  unfold pollContract at h
  split at h
  · obtain ⟨hok, h⟩ := State.onShared_next h
    refine .inr ⟨‹_›, hok, ?_⟩
    dsimp only at h
    rw [countTraversal_loadCb s s.bases (by decide), State.countTraversal_cop] at h
    change (if 1 < s.readyBank.toNat then _ else _) = _ at h
    split at h
    · cases h
    · refine ⟨by omega, ?_⟩
      split at h
      · exact .inl ⟨‹_›, by cases h; rfl⟩
      · exact .inr ⟨by tauto, by cases h; rfl⟩
  · exact .inl (by cases h; rfl)

theorem pollSimulated_next {s t : State} (h : pollSimulated s = .next t) :
    s.bases.ok = true ∧ s.readyBank.toNat ≤ 1
      ∧ ((s.readyBank ≠ s.startBank
            ∧ t = { s.acquireStores.storeCb s.bases cbOffStart s.readyBank with
                    cop := { s.cop with cur := s.readyBank.setWidth 1 } })
        ∨ (s.readyBank = s.startBank ∧ t = s.acquireStores)) := by
  obtain ⟨hok, h⟩ := State.onShared_next h
  dsimp only at h
  change (if 1 < s.readyBank.toNat then _ else _) = _ at h
  split at h
  · cases h
  · refine ⟨hok, by omega, ?_⟩
    split at h
    · exact .inl ⟨‹_›, by cases h; rfl⟩
    · rename_i hn
      exact .inr ⟨not_not.1 hn, by cases h; rfl⟩

theorem execMonSample_next {s t : State} (h : execMonSample s = .next t) :
    t = s ∨ (s.bridged = true ∧ s.bases.ok = true ∧ t = { s with monSample := s.frameCount }) := by
  unfold execMonSample at h
  split at h
  · obtain ⟨hok, h⟩ := State.onShared_next h
    exact .inr ⟨‹_›, hok, by cases h; rfl⟩
  · exact .inl (by cases h; rfl)

/-! ### The schedule -/

/-- Everything a step can do when the machine goes on: idle, or its first event. -/
theorem step_next {s t : State} (h : step s = .next t) :
    s.cfg.ok = true ∧ ((s.sched = [] ∧ t = s)
      ∨ ∃ e rest, s.sched = e :: rest ∧ stepEvent e { s with sched := rest } = .next t) := by
  unfold step stepNext at h
  split at h
  · refine ⟨‹_›, ?_⟩
    split at h
    · exact .inl ⟨‹_›, by cases h; rfl⟩
    · exact .inr ⟨_, _, ‹_›, h⟩
  · cases h

end Sys2Proof.Machine
end

