-- ==== Sys2Proof/Laws/PerInstr.lean ====
section
/-!
SUPPORT. What holds of every instruction as syntax: the family TableRow, one lemma per constructor.
-/

namespace Sys2Proof.Laws.TableRow

/-- The mask and the match value of an instruction's row (30_encoding.md R111, R113). -/
def maskMatch : Instr → Word × Word
  | .buildGamma => (0xFFFFFFFF#32, 0x00000001#32)
  | .buildDither => (0xFFFFFFFF#32, 0x00000002#32)
  | .encodeBank _ => (0xFFFFFEFF#32, 0x00000003#32)
  | .bridge => (0xFFFFFFFF#32, 0x00000004#32)
  | .waitReady => (0xFFFFFFFF#32, 0x00000005#32)
  | .finish _ => (0xFFFFFEFF#32, 0x00000006#32)
  | .copFetch => (0xFFFFFFFF#32, 0x00000010#32)
  | .copPoll => (0xFFFFFFFF#32, 0x00000011#32)
  | .monSample => (0xFFFFFFFF#32, 0x00000012#32)

/-- An instruction is well formed, its word matches its row, and bits 31:9 of the word are zero. -/
def Statement (i : Instr) : Prop :=
  i.wf = true ∧ encode i &&& (maskMatch i).1 = (maskMatch i).2 ∧ zeroField (encode i) = 0#23

theorem buildGamma : Statement .buildGamma := ⟨rfl, by decide, by decide⟩
theorem buildDither : Statement .buildDither := ⟨rfl, by decide, by decide⟩
theorem encodeBank (b : Sbank) : Statement (.encodeBank b) := ⟨rfl, by revert b; decide, by revert b; decide⟩
theorem bridge : Statement .bridge := ⟨rfl, by decide, by decide⟩
theorem waitReady : Statement .waitReady := ⟨rfl, by decide, by decide⟩
theorem finish (b : Sbank) : Statement (.finish b) := ⟨rfl, by revert b; decide, by revert b; decide⟩
theorem copFetch : Statement .copFetch := ⟨rfl, by decide, by decide⟩
theorem copPoll : Statement .copPoll := ⟨rfl, by decide, by decide⟩
theorem monSample : Statement .monSample := ⟨rfl, by decide, by decide⟩

end Sys2Proof.Laws.TableRow
end

