-- ==== Sys2Proof/Laws/Reports.lean ====
section
/-!
SUPPORT. What a command leaves, in the words of Safety.lean: a completion, an error of the reject class, an error of the
fatal class; and how SW's step of a command reaches its own tests, whether issued now or outstanding already.
-/

namespace Sys2Proof.Machine

@[simp] theorem State.endDraws_none {s : State} (h : s.outstanding = none) : s.endDraws = s.draws := if_pos (.inl h)

/-- What `endCommand` counts of a command outstanding. -/
theorem State.endDraws_some {s : State} (h : s.outstanding ≠ none) :
    s.endDraws = if s.stale.isEmpty && s.pixStale.isEmpty then s.draws else s.draws + 1 := by
  unfold State.endDraws
  simp [h]

theorem State.complete_issued {s : State} (h : s.outstanding = none) (c : Command) (x : Word) :
    (s.issued c).complete x = s.withCompletion x := by
  unfold State.withCompletion
  rw [State.endDraws_none h]
  cases s; cases h; rfl

theorem State.report_begun {s : State} (h : s.outstanding = none) {e : ErrCode} (he : e.errClass = .reject) (info : Word) :
    s.begun.report e info = s.withError e.code info := by
  unfold State.withError
  rw [State.endDraws_none h]
  cases s; cases h
  cases e <;> cases he <;>
    simp [State.report, State.endCommand, State.begun, ErrCode.errClass]

theorem State.report_issued {s : State} (h : s.outstanding = none) (c : Command) {e : ErrCode} (he : e.errClass = .reject)
    (info : Word) : (s.issued c).report e info = s.withError e.code info := by
  rw [← State.report_begun h he]; rfl

/-! ### A command SW's step reaches -/

/-- The state a command's own tests start from: `c` outstanding, with what has been changed under it. -/
def State.started (s : State) (c : Command) (err : Bool) (st : List (PortReg × Word)) (px : Memory) : State :=
  { s with err := err, outstanding := some c, stale := st, pixStale := px }

/-- What the values changed under a command SW's step reaches can be. -/
structure State.Fresh (s : State) (c : Command) (st : List (PortReg × Word)) (px : Memory) : Prop where
  operands : ∀ e ∈ st, e.1 ∉ operandsOf c
  pixels : px = [] ∨ (s.outstanding = some c ∧ px = s.pixStale)
  draws : (if st.isEmpty && px.isEmpty then s.draws else s.draws + 1) = s.endDraws

/-- SW's step of a command that is issued now, or is outstanding, gets to the command's own tests and effect. -/
theorem State.command_takes {s : State} {c : Command} (h : s.takes c) (ha : s.allows c = true) (body : State → Out) :
    ∃ err st px, s.Fresh c st px ∧ s.command c body = body (s.started c err st px) := by
  rcases h with ⟨ho, hf⟩ | ⟨ho, h1⟩
  · exact ⟨false, [], [], ⟨by simp, .inl rfl, by simp [ho]⟩, State.command_issue (s.not_busy_iff.2 ho) hf ha⟩
  · refine ⟨s.err, s.stale, s.pixStale, ⟨h1, .inr ⟨ho, rfl⟩, (State.endDraws_some (by rw [ho]; simp)).symm⟩,
      (State.command_resume ho).trans ?_⟩
    cases s; cases ho; rfl

section Started

variable {s : State} {c : Command} {err : Bool} {st : List (PortReg × Word)} {px : Memory}

theorem State.Fresh.complete (h : s.Fresh c st px) (x : Word) :
    (s.started c err st px).complete x = s.withCompletion x := by
  unfold State.withCompletion
  rw [← h.draws]
  rfl

/-- An error of the reject or the fatal class, with the channel as `hs`. -/
theorem State.Fresh.report (h : s.Fresh c st px) (e : ErrCode) (info : Word) (hs : Channel) :
    State.report { s.started c err st px with hs := hs } e info
      = { s.withError e.code info with fatal := s.fatal || decide (e.errClass = .fatal), hs := hs } := by
  unfold State.withError
  rw [← h.draws]
  rfl

/-- An error of the reject class. -/
theorem State.Fresh.reject (h : s.Fresh c st px) {e : ErrCode} (he : e.errClass = .reject) (info : Word) :
    (s.started c err st px).report e info = s.withError e.code info := by
  refine (h.report e info s.hs).trans ?_
  rw [he]
  simp [State.withError]

/-- An error of the fatal class that BRIDGE meets with the channel as `hs`. -/
theorem State.Fresh.raise_fatal (h : s.Fresh c st px) {e : ErrCode} (he : e.errClass = .fatal) (info : Word) (hs : Channel) :
    State.raise { s.started c err st px with hs := hs } e info
      = .next { s.withError e.code info with fatal := true, hs := hs } := by
  rw [State.raise_of_ne_fault (by rw [he]; decide), h.report, he]
  simp

theorem State.Fresh.staleOf (h : s.Fresh c st px) {r : PortReg} (hr : r ∈ operandsOf c) :
    Sys2Proof.Machine.staleOf r st = [] := by
  unfold Sys2Proof.Machine.staleOf
  rw [List.filter_eq_nil_iff.2 fun e he hk => h.operands e he (by rw [of_decide_eq_true hk]; exact hr)]
  rfl

/-- A command reads the operand registers as they stand. -/
theorem State.Fresh.portOperand (h : s.Fresh c st px) {r : PortReg} (hr : r ∈ operandsOf c) (hn : r ≠ .status) :
    (s.started c err st px).portOperand r = s.portRead r := by
  show pick _ (Sys2Proof.Machine.staleOf r st) _ = _
  rw [h.staleOf hr]
  cases r <;> first | exact absurd rfl hn | rfl

theorem State.Fresh.recordedLength (h : s.Fresh c st px) (hr : PortReg.pixLen ∈ operandsOf c) :
    (s.started c err st px).recordedLength = s.port.pixLen := by
  show pick _ (Sys2Proof.Machine.staleOf .pixLen st) _ = _
  rw [h.staleOf hr]
  rfl

/-- ENCODE reads each pixel byte as it stands or as one of the values it has had under the command. -/
theorem State.Fresh.pixOperand (h : s.Fresh c st px) (key a : Nat) :
    (s.started c err st px).pixOperand key a = s.pixByte a
      ∨ (s.outstanding = some c ∧ (a, (s.started c err st px).pixOperand key a) ∈ s.pixStale) := by
  have hp := mem_pick (s.pixByte a) (Sys2Proof.Machine.staleOf a px) (Config.freeChoice s.draws (key + 12))
  rcases hp with hp | hp
  · exact .inl hp
  · rcases h.pixels with rfl | ⟨ho, rfl⟩
    · cases hp
    · exact .inr ⟨ho, mem_staleOf.1 hp⟩

end Started

end Sys2Proof.Machine
end

