-- ==== Sys2Proof/Laws/Step.lean ====
section
/-!
SUPPORT. Everything one event can do when the machine goes on, said once: the relation Moves, one constructor per kind of
change, and the lemma that every step is one of them. The whole-machine statements are proved by cases on it.
-/

namespace Sys2Proof.Machine

/-- Command `c` is at work, in the state `s0`: outstanding already, or issued by this very event. -/
inductive AtWork (s : State) (c : Command) : State → Prop
  | resumed (ho : s.outstanding = some c) : AtWork s c s
  | issued (ho : s.outstanding = none) (hf : s.fatal = false) (ha : s.allows c = true) : AtWork s c (s.issued c)

/-- What event `e` can make of `s`. -/
inductive Moves (e : Event) (s : State) : State → Prop
  /-- Nothing: a hold, a write ignored, a step its agent does not have. -/
  | still : Moves e s s
  /-- A command issued and left outstanding, or one that holds right after its issue. -/
  | issue (c : Command) (he : e.command? = some c) (ho : s.outstanding = none) (hf : s.fatal = false)
      (ha : s.allows c = true) : Moves e s (s.issued c)
  /-- An error of the reject class before the command's own tests, with nothing outstanding; `s0` differs from `s` in what an issue writes. -/
  | reject (s0 : State) (code : ErrCode) (info : Word) (hs : s0 = s.begun ∨ ∃ c, s0 = s.issued c)
      (hc : code.errClass = .reject) (ho : s.outstanding = none) : Moves e s (s0.report code info)
  | gammaDone (s0 : State) (he : e.command? = some .buildGamma) (hw : AtWork s .buildGamma s0) :
      Moves e s { s0.complete 0#32 with gammaLut := some (gammaEntries s.cfg s0.gammaOperand) }
  | ditherDone (s0 : State) (he : e.command? = some .buildDither) (hw : AtWork s .buildDither s0) :
      Moves e s { s0.complete 0#32 with ditherLut := some ditherEntries }
  | encodeDone (b : Sbank) (s0 : State) (gamma : GammaLut) (dither : DitherLut)
      (he : e.command? = some (.encodeBank b)) (hw : AtWork s (.encodeBank b) s0)
      (hg : s.gammaLut = some gamma) (hd : s.ditherLut = some dither) (hok : s.bases.ok = true) :
      Moves e s { (s0.storeSchedule s.bases b ⟨s.cfg, gamma, dither⟩).complete 0#32 with own := s.own.afterEncode b }
  | encodeRejected (b : Sbank) (s0 : State) (code : ErrCode) (info : Word)
      (he : e.command? = some (.encodeBank b)) (hw : AtWork s (.encodeBank b) s0) (hc : code.errClass = .reject) :
      Moves e s (s0.report code info)
  | bridged (s0 t : State) (he : e.command? = some .bridge) (hw : AtWork s .bridge s0) (hf : BridgeFrame s0 t) :
      Moves e s t
  | waitDone (s0 : State) (he : e.command? = some .waitReady) (hw : AtWork s .waitReady s0)
      (hok : s.bases.ok = true) (hr : s.readyBank = s.startBank) :
      Moves e s { s0.complete (sbankWord (grantOf s.readyBank)) with own := .granted (grantOf s.readyBank) }
  | finishDone (b : Sbank) (s0 : State) (he : e.command? = some (.finish b)) (hw : AtWork s (.finish b) s0)
      (hok : s.bases.ok = true) :
      Moves e s { ((s0.releaseStores).storeCb s.bases cbOffReady (sbankWord b)).complete 0#32 with own := .none }
  | fetched (he : e = .word 0x10#32) (hc : s.cfg.cop = .contract) (hb : s.cop.atBoundary = false) (hok : s.bases.ok = true) :
      Moves e s { s with
        cop := { s.cop.advance s.cfg.copPoll with pins := s.fetchWords s.bases }
        draws := if s.races s.cop.cur then s.draws + 1 else s.draws }
  | switched (he : e = .word 0x11#32) (hc : s.cfg.cop = .contract) (hb : s.cop.atBoundary = true) (hok : s.bases.ok = true)
      (hr : s.readyBank.toNat ≤ 1) (hn : s.readyBank ≠ sbankWord s.cop.cur) :
      Moves e s (((s.countTraversal s.bases).acquireStores).switchTo s.bases s.readyBank)
  | replayed (he : e = .word 0x11#32) (hc : s.cfg.cop = .contract) (hb : s.cop.atBoundary = true) (hok : s.bases.ok = true)
      (hn : s.readyBank = sbankWord s.cop.cur) :
      Moves e s (((s.countTraversal s.bases).acquireStores).replayOn)
  | copied (he : e = .word 0x11#32) (hc : s.cfg.cop = .simulated) (hok : s.bases.ok = true) (hr : s.readyBank.toNat ≤ 1)
      (hn : s.readyBank ≠ s.startBank) :
      Moves e s { s.acquireStores.storeCb s.bases cbOffStart s.readyBank with
        cop := { s.cop with cur := s.readyBank.setWidth 1 } }
  | looked (he : e = .word 0x11#32) (hc : s.cfg.cop = .simulated) : Moves e s s.acquireStores
  | sampled (he : e = .word 0x12#32) : Moves e s { s with monSample := s.frameCount }
  | operand (r : PortReg) (p : HostPort) (hr : p.result = s.port.result) (hc : p.errCode = s.port.errCode) :
      Moves e s (s.setOperand r p)
  | looksAtPort (v : Word) : Moves e s { s with portData := v }
  | pixel (a : Nat) (v : Byte) (ha : a < s.cfg.width * s.cfg.height * 4) (l : Memory) :
      Moves e s { s with pix := s.pix.fill a 1 (fun _ => v), pixStale := l }
  | channel (hs : Channel) : Moves e s { s with hs := hs }
  | restarted (he : e = .restart) : Moves e s s.restart

theorem decodeWord_trace {w : Word} {i : Instr} (h : decodeWord w = .ok i) (hi : i.command? = none) :
    (i = .copFetch ∧ w = 0x10#32) ∨ (i = .copPoll ∧ w = 0x11#32) ∨ (i = .monSample ∧ w = 0x12#32) := by
  have hz : (zeroField w).toNat = 0 := by
    unfold decodeWord at h
    split at h
    · rw [‹zeroField w = 0#23›]; rfl
    · cases h
  have hw : w.toNat = (opField w).toNat + 256 * (bankField w).toNat := by
    have h1 := w.isLt
    simp only [opField, bankField, zeroField, BitVec.extractLsb'_toNat, Nat.shiftRight_eq_div_pow] at *
    omega
  have hb : ∀ {b : Sbank} {j : Instr}, withoutBank b j = .ok i → i = j ∧ b = 0#1 := by
    intro b j hj
    unfold withoutBank at hj
    split at hj
    · exact ⟨by cases hj; rfl, ‹_›⟩
    · cases hj
  have he : ∀ {n : Nat}, (opField w).toNat = n → bankField w = 0#1 → w = BitVec.ofNat 32 n := by
    intro n h1 h2
    apply BitVec.eq_of_toNat_eq
    rw [hw, h1, h2, BitVec.toNat_ofNat]
    have := (opField w).isLt
    simp; omega
  unfold decodeWord at h
  split at h
  · unfold decodeOp at h
    split at h
    all_goals first
      | (obtain ⟨rfl, h0⟩ := hb h
         rename_i ho
         first
           | exact .inl ⟨rfl, he ho h0⟩
           | exact .inr (.inl ⟨rfl, he ho h0⟩)
           | exact .inr (.inr ⟨rfl, he ho h0⟩)
           | cases hi)
      | (cases h; cases hi)
      | cases h
  · cases h

/-- The command of a trace word. -/
theorem command?_word {w : Word} {i : Instr} (h : decodeWord w = .ok i) : (Event.word w).command? = i.command? := by
  show (decodeCmd w).toOption = _
  unfold decodeCmd
  rw [h]
  dsimp only
  cases i.command? <;> rfl

/-- SW's step of a command. -/
theorem moves_command {e : Event} {s t : State} {c : Command} {body : State → Out}
    (hb : ∀ s0, AtWork s c s0 → body s0 = .next t → Moves e s t) (h : s.command c body = .next t) : Moves e s t := by
  rcases State.command_next h with ⟨ho, h⟩ | ⟨-, -, rfl⟩ | ⟨hb', -, rfl⟩ | ⟨hb', hf, ha, h⟩
  · exact hb s (.resumed ho) h
  · exact .still
  · exact .reject _ _ _ (.inr ⟨c, rfl⟩) rfl (s.not_busy_iff.1 hb')
  · exact hb _ (.issued (s.not_busy_iff.1 hb') hf ha) h

theorem moves_badCommand {e : Event} {s t : State} {w : Word} (h : s.badCommand w = .next t) : Moves e s t := by
  rcases State.badCommand_next h with ⟨-, rfl⟩ | ⟨hb, -, rfl⟩ | ⟨hb, -, rfl⟩
  · exact .still
  · exact .reject _ _ _ (.inl rfl) rfl (s.not_busy_iff.1 hb)
  · exact .reject _ _ _ (.inl rfl) rfl (s.not_busy_iff.1 hb)

/-- What a command at work sees of the shared state is what `s` has. -/
theorem AtWork.same {s s0 : State} {c : Command} (h : AtWork s c s0) :
    s0.cfg = s.cfg ∧ s0.bound = s.bound ∧ s0.mem = s.mem ∧ s0.gammaLut = s.gammaLut ∧ s0.ditherLut = s.ditherLut
      ∧ s0.own = s.own ∧ s0.cop = s.cop ∧ s0.vis = s.vis ∧ s0.pix = s.pix ∧ s0.port = s.port ∧ s0.fatal = s.fatal
      ∧ s0.copBases = s.copBases ∧ s0.outstanding = some c := by
  cases h with
  | resumed ho => exact ⟨rfl, rfl, rfl, rfl, rfl, rfl, rfl, rfl, rfl, rfl, rfl, rfl, ho⟩
  | issued ho hf ha => exact ⟨rfl, rfl, rfl, rfl, rfl, rfl, rfl, rfl, rfl, rfl, rfl, rfl, rfl⟩

theorem AtWork.bases {s s0 : State} {c : Command} (h : AtWork s c s0) : s0.bases = s.bases :=
  State.bases_congr h.same.2.2.2.2.2.2.2.2.2.2.2.1 h.same.2.1

theorem AtWork.loadCb {s s0 : State} {c : Command} (h : AtWork s c s0) (off : Nat) :
    s0.loadCb s0.bases off = s.loadCb s.bases off := by
  rw [h.bases]; exact State.loadCb_congr h.same.2.2.1 _ _

/-- A command that holds leaves the state it is at work in. -/
theorem AtWork.hold {e : Event} {s s0 : State} {c : Command} (hc : e.command? = some c) (h : AtWork s c s0) : Moves e s s0 := by
  cases h with
  | resumed ho => exact .still
  | issued ho hf ha => exact .issue c hc ho hf ha

/-- Every instruction. -/
theorem exec_moves {e : Event} {s t : State} {i : Instr} (hc : e.command? = i.command?)
    (hf : i = .copFetch → e = .word 0x10#32) (hp : i = .copPoll → e = .word 0x11#32)
    (hm : i = .monSample → e = .word 0x12#32) (h : exec i s = .next t) : Moves e s t := by
  cases i with
  | buildGamma =>
    refine moves_command (fun s0 hw h => ?_) h
    obtain ⟨-, rfl⟩ := bodyBuildGamma_next h
    rw [hw.same.1]
    exact .gammaDone s0 hc hw
  | buildDither =>
    refine moves_command (fun s0 hw h => ?_) h
    rw [bodyBuildDither_eq] at h
    cases h
    exact .ditherDone s0 hc hw
  | encodeBank b =>
    refine moves_command (fun s0 hw h => ?_) h
    rcases bodyEncode_next h with ⟨gamma, dither, hg, hd, hok, rfl⟩ | rfl | rfl
    · rw [hw.bases] at hok ⊢
      rw [hw.same.1, hw.same.2.2.2.2.2.1]
      exact .encodeDone b s0 gamma dither hc hw (hw.same.2.2.2.1 ▸ hg) (hw.same.2.2.2.2.1 ▸ hd) hok
    · exact .encodeRejected b s0 _ _ hc hw rfl
    · exact .encodeRejected b s0 _ _ hc hw rfl
  | bridge =>
    refine moves_command (fun s0 hw h => ?_) h
    exact .bridged s0 t hc hw (bodyBridge_next h)
  | waitReady =>
    refine moves_command (fun s0 hw h => ?_) h
    obtain ⟨hok, ⟨hr, rfl⟩ | ⟨-, rfl⟩⟩ := bodyWaitReady_next h
    · have e1 : s0.readyBank = s.readyBank := hw.loadCb _
      have e2 : s0.startBank = s.startBank := hw.loadCb _
      rw [e1, e2] at hr
      rw [e1]
      exact .waitDone s0 hc hw (hw.bases ▸ hok) hr
    · exact hw.hold hc
  | finish b =>
    refine moves_command (fun s0 hw h => ?_) h
    obtain ⟨hok, rfl⟩ := bodyFinish_next h
    rw [hw.bases] at hok ⊢
    exact .finishDone b s0 hc hw hok
  | copFetch =>
    rcases execCopFetch_next h with rfl | ⟨h1, h2, h3, rfl⟩
    · exact .still
    · exact .fetched (hf rfl) h1 h2 h3
  | copPoll =>
    have h' : (match s.cfg.cop with | .contract => pollContract s | .simulated => pollSimulated s | .absent => .next s) = .next t := h
    split at h'
    · rcases pollContract_next h' with rfl | ⟨h1, h2, h3, ⟨h4, rfl⟩ | ⟨h4, rfl⟩⟩
      · exact .still
      · exact .switched (hp rfl) ‹_› h1 h2 h3 h4
      · exact .replayed (hp rfl) ‹_› h1 h2 h4
    · obtain ⟨h1, h2, ⟨h3, rfl⟩ | ⟨-, rfl⟩⟩ := pollSimulated_next h'
      · exact .copied (hp rfl) ‹_› h1 h2 h3
      · exact .looked (hp rfl) ‹_›
    · cases h'; exact .still
  | monSample =>
    rcases execMonSample_next h with rfl | ⟨-, -, rfl⟩
    · exact .still
    · exact .sampled (hm rfl)

/-- Every event. -/
theorem stepEvent_moves {e : Event} {s t : State} (h : stepEvent e s = .next t) : Moves e s t := by
  cases e with
  | word w =>
    change State.traceWord s w = _ at h
    unfold State.traceWord at h
    split at h
    · rename_i i hd
      have key : ∀ j, i = j → j.command? = none → i = .copFetch ∧ w = 0x10#32 ∨ i = .copPoll ∧ w = 0x11#32 ∨ i = .monSample ∧ w = 0x12#32 :=
        fun j hj hn => decodeWord_trace hd (hj ▸ hn)
      refine exec_moves (command?_word hd) (fun hi => ?_) (fun hi => ?_) (fun hi => ?_) h
      all_goals
        rcases key _ hi rfl with ⟨h1, h2⟩ | ⟨h1, h2⟩ | ⟨h1, h2⟩
        all_goals first
          | (rw [hi] at h1; cases h1; done)
          | rw [h2]
    · exact moves_badCommand h
  | portWrite off v =>
    change (match portReg? off with | some r => s.portWrite r v | none => .refused .noSuchPortRegister) = _ at h
    split at h
    · rename_i r hr
      cases r with
      | cmd =>
        have hoff : off = 0 := by
          unfold portReg? at hr
          split at hr <;> first | rfl | cases hr
        change (match decodeCmd v with | .ok c => s.command c .next | .error _ => s.badCommand v) = _ at h
        split at h
        · rename_i c hd
          have he : (Event.portWrite off v).command? = some c := by
            show (if off = 0 then (decodeCmd v).toOption else none) = _
            rw [if_pos hoff, hd]; rfl
          refine moves_command (fun s0 hw h => ?_) h
          cases h
          exact hw.hold he
        · exact moves_badCommand h
      | pixW => cases h; exact .operand _ _ rfl rfl
      | pixH => cases h; exact .operand _ _ rfl rfl
      | pixLen => cases h; exact .operand _ _ rfl rfl
      | gammaLo => cases h; exact .operand _ _ rfl rfl
      | gammaHi => cases h; exact .operand _ _ rfl rfl
      | status => cases h; exact .still
      | result => cases h; exact .still
      | errCode => cases h; exact .still
      | errInfo => cases h; exact .still
      | hsState => cases h; exact .still
    · cases h
  | portRead off =>
    dsimp only [stepEvent] at h
    split at h
    · cases h; exact .looksAtPort _
    · cases h
  | pixStore a v =>
    change State.pixStore s a v = _ at h
    unfold State.pixStore at h
    split at h
    · cases h; exact .pixel a v ‹_› _
    · cases h
  | hsDevice o n => cases h; exact .channel _
  | hsDeliver v =>
    cases h
    unfold State.hsDeliver
    split
    · exact .still
    · exact .channel _
  | hsEnd => cases h; exact .channel _
  | hsFresh =>
    cases h
    rcases s.hsFresh_cases with h | ⟨hs, h⟩ <;> rw [h]
    · exact .still
    · exact .channel _
  | cbStore who field v => cases h
  | restart => cases h; exact .restarted rfl

end Sys2Proof.Machine
end

