-- ==== Sys2Proof/Tests/Slice0.lean ====
section
/-!
SUPPORT. The model's own tests. Expected values are those of 95_test_vectors.md (the vector is named) or are worked out
by hand from the rule named; and, for each obligation with hypotheses, a state and operands that meet them together.
-/

namespace Sys2Proof.Tests

open Sys2Proof Sys2Proof.Machine

/-! ### Configurations a model refuses, one ill-formed term for each check -/

theorem test_cfgT_ok : Config.cfgT.ok = true := by decide
theorem test_illformed_geometry : ({ Config.cfgT with height := 0 } : Config).geometryOk = false := by decide
theorem test_illformed_gamma : ({ Config.cfgT with gamma := 0x7FF0000000000000 } : Config).gammaOk = false := by decide
theorem test_illformed_rowgroup : ({ Config.cfgT with nRowgroup := 3 } : Config).rowgroupsOk = false := by decide
theorem test_illformed_rowgroup_of_signal :
    ({ Config.cfgT with wiring := [⟨⟨0, 2, .red, 0⟩, 0, 0⟩] } : Config).rowgroupsOk = false := by decide
theorem test_illformed_wiring :
    ({ Config.cfgT with wiring := [⟨⟨0, 0, .red, 0⟩, 0, 4⟩, ⟨⟨0, 0, .green, 0⟩, 0, 4⟩] } : Config).wiringOk = false := by
  decide
theorem test_illformed_src : ({ Config.cfgT with src := [⟨0, 0, 0, 0, 2, 0⟩] } : Config).srcOk = false := by decide
theorem test_illformed_payload : ({ Config.cfgT with payload := [] } : Config).payloadOk = false := by decide
theorem test_illformed_region_misaligned : ({ Config.cfgT with cbAddr := 0x00200002 } : Config).regionsOk = false := by
  decide
theorem test_illformed_region_outside : ({ Config.cfgT with fsAddr := 0xFFE00004 } : Config).regionsOk = false := by decide
theorem test_illformed_regions_overlap : ({ Config.cfgT with cbAddr := 0x001FFFFC } : Config).regionsOk = false := by decide
theorem test_illformed_agent :
    ({ Config.cfgT with mode := .production, cop := .absent } : Config).agentOk = false := by decide
theorem test_illformed_has_no_step :
    step { State.reset with cfg := { Config.cfgT with height := 0 } } = .refused .badConfiguration := rfl

/-! ### Decoding: the words of 95_test_vectors.md 2.7, written out bit by bit from 30_encoding.md R109 -/

theorem test_decode_tables :
    decodeWord 0b00000000000000000000000_0_00000001#32 = .ok .buildGamma
    ∧ decodeWord 0b00000000000000000000000_0_00000010#32 = .ok .buildDither := by decide
theorem test_decode_encode :
    decodeWord 0b00000000000000000000000_0_00000011#32 = .ok (.encodeBank 0)
    ∧ decodeWord 0b00000000000000000000000_1_00000011#32 = .ok (.encodeBank 1) := by decide
theorem test_decode_bridge : decodeWord 0b00000000000000000000000_0_00000100#32 = .ok .bridge := by decide
theorem test_decode_synchronizer :
    decodeWord 0b00000000000000000000000_0_00000101#32 = .ok .waitReady
    ∧ decodeWord 0b00000000000000000000000_0_00000110#32 = .ok (.finish 0)
    ∧ decodeWord 0b00000000000000000000000_1_00000110#32 = .ok (.finish 1) := by decide
theorem test_decode_consumer :
    decodeWord 0b00000000000000000000000_0_00010000#32 = .ok .copFetch
    ∧ decodeWord 0b00000000000000000000000_0_00010001#32 = .ok .copPoll
    ∧ decodeWord 0b00000000000000000000000_0_00010010#32 = .ok .monSample := by decide
theorem test_decode_illegal :
    decodeWord 0x00000000#32 = .error .reservedOp ∧ decodeWord 0x00000007#32 = .error .reservedOp
    ∧ decodeCmd 0x00000010#32 = .error .traceOnly ∧ decodeWord 0x00000105#32 = .error .operandBitSet
    ∧ decodeWord 0x00000203#32 = .error .highBitsSet ∧ decodeWord 0x80000006#32 = .error .highBitsSet := by decide

/-! ### Small states -/

/-- Whether the machine goes on, to a state that satisfies `p`. -/
def after (o : Out) (p : State → Bool) : Bool :=
  match o with
  | .next t => p t
  | .fault _ => false
  | .refused _ => false

/-- P1 after step 6 (CFG-T, offline, both tables built, the descriptor set), with the pixels `pix`. -/
def booted (pix : Memory) : State :=
  { State.reset with
    gammaLut := some (gammaEntries Config.cfgT 0x3FF0000000000000#64)
    ditherLut := some ditherEntries
    port := { State.reset.port with pixW := 2, pixH := 2, pixLen := 16 }
    pix := pix }

/-- P1 after step 7: SW holds sbank 1. -/
def held : State := { booted [] with own := .granted 1 }

/-- P1 after step 8. -/
def encoded : State := { booted [] with own := .written 1, vis := ⟨.visible, .pending⟩ }

/-- The production machine right after reset, both tables unbuilt. -/
def production : State := State.resetOf { Config.cfgT with mode := .production }

/-- The mock ControlBlock of V-B1 at 0x4A300000, the descriptor as given, and the device's reply. -/
def mock (fs size : Word) (reply : List Byte) : State :=
  { production with
    mem := Memory.storeWord (Memory.storeWord production.mem 0x4A300000 fs) 0x4A300004 size
    hs := { production.hs with inbox := reply } }

/-- The two handoff fields of the reset configuration, as given, and COP on the sbank of `startBank`. -/
def fields (ready start : Word) : State :=
  let bs : Bases := ⟨0x00200000, 0⟩
  { (State.reset.storeCb bs cbOffReady ready).storeCb bs cbOffStart start with
    cop := { State.reset.cop with cur := start.setWidth 1 } }

/-- `frameCount` as given. -/
def withCount (s : State) (n : Word) : State := s.storeCb ⟨0x00200000, 0⟩ cbOffCount n

/-- COP at the end of a traversal. -/
def atEnd (s : State) : State := { s with cop := { s.cop with atBoundary := true } }

/-- The cursor as given. -/
def cursor (s : State) (f : SubFrame) (r : RowSel) (p : ScanPos) : State :=
  { s with cop := { s.cop with f := f, r := r, p := p } }

/-! ### The instructions -/

/-- V-G1, V-G2: samples with gamma 1.0 and gamma 2.0 in the operand registers. -/
theorem test_buildGamma_samples :
    after (exec .buildGamma { State.reset with port := { State.reset.port with gammaHi := 0x3FF00000 } })
      (fun t => decide (t.gammaLut.map (fun l => [l[3], l[4], l[127], l[128]])
        = some [0, 1, 31, 32])) = true
    ∧ after (exec .buildGamma { State.reset with port := { State.reset.port with gammaHi := 0x40000000 } })
      (fun t => decide (t.gammaLut.map (fun l => [l[29], l[30], l[128], l[245]])
        = some [0, 1, 16, 58])) = true := by decide +kernel

/-- V-G6. -/
theorem test_buildGamma_again :
    after (exec .buildGamma (booted [])) (fun t => t.err && t.port.errCode == 8 && t.port.errInfo == 1
      && decide (t.gammaLut.map (fun l => (l[127], l[128])) = some (31, 32))) = true := by decide +kernel

/-- V-D1 to V-D5. -/
theorem test_buildDither_masks :
    after (exec .buildDither State.reset) (fun t => decide (t.ditherLut.map (fun l => [l[0], l[1], l[2], l[3], l[5], l[16],
        l[32], l[33], l[62], l[63]])
      = some [0x0000000000000000, 0x0000000000000001, 0x0000000100000001, 0x0000040000200001, 0x0008004002001001,
        0x1111111111111111, 0x5555555555555555, 0x55555555AAAAAAAB, 0x7FFFFFFF7FFFFFFF, 0x7FFFFFFFFFFFFFFF])) = true := by
  decide +kernel

/-- P4 steps 3 and 4, V-D7. -/
theorem test_buildDither_again :
    after (exec .buildDither production) (fun t => t.statusWord == 0x10 && t.port.errCode == 0
      && after (exec .buildDither t) (fun u => u.statusWord == 0x12 && u.port.errCode == 8 && u.port.errInfo == 2)) = true := by
  decide +kernel

/-- The buffer of V-E3. -/
def bufferE3 (a : Nat) : Byte :=
  BitVec.ofNat 8 ([0x80, 0x04, 0x03, 0x09, 0, 0, 0, 0xFF, 0xFF, 0, 0x40, 0, 0x08, 0x0C, 0xFC, 0x01].getD a 0)

/-- V-E3: the words of sub-frames 0 and 21 at (r = 0, p = 0) and (r = 0, p = 1), and one at r = 1. -/
theorem test_encode_words :
    (let e : EncodeInput := ⟨Config.cfgT, gammaEntries Config.cfgT 0x3FF0000000000000#64, ditherEntries⟩
     [(0, 0, 0, 0), (0, 0, 0, 1), (0, 0, 0, 2), (0, 0, 0, 3), (0, 0, 1, 0), (0, 0, 1, 1), (0, 0, 1, 2), (0, 0, 1, 3),
      (21, 0, 0, 0), (21, 0, 0, 1), (21, 0, 1, 1), (21, 0, 1, 2), (0, 1, 0, 0)].map
        (fun (f, r, p, g) => e.word (fun _ a => bufferE3 a) (BitVec.ofNat 6 f) (BitVec.ofNat 4 r) (BitVec.ofNat 6 p)
          (BitVec.ofNat 2 g)))
    = [0x30, 0x1000, 0x80000000, 1, 0, 0x3000, 0x80000000, 0, 0, 0x1000, 0x2000, 0x80000000, 0] := by decide +kernel

/-- V-E6: right length, wrong shape; and P4 step 1. -/
theorem test_encode_rejects :
    after (exec (.encodeBank 0) { booted [] with port := { State.reset.port with pixW := 4, pixH := 1, pixLen := 16 } })
      (fun t => t.err && t.port.errCode == 5 && t.port.errInfo == 16 && decide (t.mem = State.reset.mem)) = true
    ∧ after (exec (.encodeBank 0) production)
      (fun t => t.statusWord == 0x02 && t.port.errCode == 8 && t.port.errInfo == 3) = true := by decide

/-- V-B1; V-B5 with a Frameset that ends at 2^32. -/
theorem test_bridge_binds :
    after (exec .bridge (mock 0x9E000000 0x00200000 [0x00, 0x00, 0x30, 0x4A])) (fun t => t.bridged
      && decide (t.bound = some ⟨0x4A300000, 0x9E000000⟩) && t.hs.state.code == 3 && t.port.errCode == 0) = true
    ∧ after (exec .bridge (mock 0xFFE00000 0x00200000 [0x00, 0x00, 0x30, 0x4A])) (fun t => t.bridged
      && decide (t.bound = some ⟨0x4A300000, 0xFFE00000⟩)) = true := by decide

/-- V-B2, V-B3, V-B4, V-B5. -/
theorem test_bridge_errors :
    after (exec .bridge (mock 0x9E000000 0x001FFFFC [0x00, 0x00, 0x30, 0x4A])) (fun t => t.fatal && t.port.errCode == 1
      && t.port.errInfo == 0x001FFFFC && !t.bridged && t.hs.state.code == 3) = true
    ∧ after (exec .bridge { mock 0 0 [0x00, 0x00] with hs := { production.hs with inbox := [0x00, 0x00], ended := true } })
      (fun t => t.fatal && t.port.errCode == 4 && t.port.errInfo == 2 && t.hs.state.code == 4) = true
    ∧ after (exec .bridge (mock 0x9E000000 0x00200000 [0x02, 0x00, 0x30, 0x4A])) (fun t => t.fatal && t.port.errCode == 9
      && t.port.errInfo == 0x4A300002) = true
    ∧ after (exec .bridge (mock 0xFFF00000 0x00200000 [0x00, 0x00, 0x30, 0x4A])) (fun t => t.fatal && t.port.errCode == 9
      && t.port.errInfo == 0xFFF00000) = true := by decide

/-- V-S1, V-S6. -/
theorem test_waitReady_grants :
    after (exec .waitReady (fields 0 0)) (fun t => t.port.result == 1 && decide (t.own = .granted 1) && !t.busy) = true
    ∧ after (exec .waitReady (fields 1 1)) (fun t => t.port.result == 0 && decide (t.own = .granted 0)) = true := by
  decide

/-- V-S2: hold, COP.POLL at the end of a traversal, complete. -/
theorem test_waitReady_holds :
    after (exec .waitReady (atEnd (fields 1 0))) (fun t => t.busy && decide (t.own = .none)
      && after (exec .copPoll t) (fun u => u.readyBank == 1 && u.startBank == 1
        && after (exec .waitReady u) (fun v => !v.busy && v.port.result == 0))) = true := by decide

/-- V-S3. -/
theorem test_finish_publishes :
    after (exec (.finish 1) (fields 0 0)) (fun t => t.readyBank == 1 && t.startBank == 0
      && decide (t.bankState 1 = .ready) && decide (t.bankState 0 = .active)) = true
    ∧ after (exec (.finish 0) (fields 1 1)) (fun t => t.readyBank == 0 && t.startBank == 1) = true := by decide

/-- V-S5, V-B7. -/
theorem test_finish_rejected :
    after (exec (.finish 1) production) (fun t => t.port.errCode == 8 && t.port.errInfo == 0x106) = true
    ∧ after (exec (.finish 0) { State.reset with fatal := true })
      (fun t => t.fatal && t.port.errCode == 8 && t.port.errInfo == 6) = true := by decide

/-- V-C1: the four loads, as addresses, and the cursor. -/
theorem test_copFetch_addresses :
    [0, 1, 2, 3].map (fun g => (⟨0x00200000, 0⟩ : Bases).frameAddr 1 2 0 5 (BitVec.ofNat 2 g)) = [0x108050, 0x108054, 0x108058, 0x10805C]
    ∧ after (exec .copFetch (cursor (fields 1 1) 2 0 5))
      (fun t => decide ((t.cop.f, t.cop.r, t.cop.p) = (2, 0, 6)) && t.cop.cur == 1) = true := by decide

/-- V-C2. -/
theorem test_copFetch_cursor :
    after (exec .copFetch (cursor State.reset 2 0 63)) (fun t => decide ((t.cop.f, t.cop.r, t.cop.p) = (2, 1, 0))) = true
    ∧ after (exec .copFetch (cursor State.reset 2 15 63))
      (fun t => decide ((t.cop.f, t.cop.r, t.cop.p) = (3, 0, 0)) && !t.cop.atBoundary) = true
    ∧ after (exec .copFetch { cursor State.reset 2 15 63 with cfg := { Config.cfgT with copPoll := .frame } })
      (fun t => decide ((t.cop.f, t.cop.r, t.cop.p) = (3, 0, 0)) && t.cop.atBoundary) = true
    ∧ after (exec .copFetch (cursor State.reset 63 15 63))
      (fun t => decide ((t.cop.f, t.cop.r, t.cop.p) = (0, 0, 0)) && t.cop.atBoundary) = true := by decide

/-- V-C3, V-C4. -/
theorem test_copPoll_counts :
    after (exec .copPoll (atEnd (withCount (fields 1 0) 41)))
      (fun t => t.frameCount == 42 && t.cop.cur == 1 && t.startBank == 1) = true
    ∧ after (exec .copPoll (atEnd (withCount (fields 1 1) 42)))
      (fun t => t.frameCount == 43 && t.cop.cur == 1 && t.startBank == 1 && !t.cop.atBoundary) = true := by decide

/-- V-C5, V-C7; P3 step 5, the simulated coprocessor. -/
theorem test_copPoll_corners :
    after (exec .copPoll (atEnd (withCount (fields 0 0) 0xFFFFFFFF))) (fun t => t.frameCount == 0) = true
    ∧ exec .copPoll (atEnd (fields 2 0)) = .fault .readyBankIllegal
    ∧ after (exec .copPoll { fields 0 1 with cfg := { Config.cfgT with cop := .simulated } })
      (fun t => t.startBank == 0 && t.frameCount == 0 && t.cop.cur == 0) = true := ⟨by decide, rfl, by decide⟩

/-- The samples of V-C6. -/
theorem test_monSample_reads :
    after (exec .monSample (withCount State.reset 0xFFFFFFFE)) (fun t => t.monSample == 0xFFFFFFFE) = true
    ∧ after (exec .monSample (withCount State.reset 1)) (fun t => t.monSample == 1) = true := by decide

/-- P4 step 2, by the trace word and by the port; P1 step 1 by the port. -/
theorem test_port :
    after (step (production.withFetchWord 32 7)) (fun t => t.port.errCode == 7 && t.port.errInfo == 7) = true
    ∧ after (stepEvent (.portWrite 0x00 7) production) (fun t => t.port.errCode == 7 && t.port.errInfo == 7) = true
    ∧ after (stepEvent (.portWrite 0x24 0x3FF00000) production) (fun t => t.port.gammaHi == 0x3FF00000) = true := by
  decide

/-- R121: RENDER holds while a handoff is pending, reads `RESULT` after COP's poll has lifted the hold, and carries the sbank
granted into ENCODE's word; with nothing pending it goes on at once. -/
theorem test_render_waits_and_carries :
    (render [[], [], [.word 0x11], []] .wait (atEnd (fields 1 0))).1 = .encode 0
    ∧ (render [[], []] .wait (fields 0 0)).1 = .encode 1
    ∧ (render [[], []] .wait (atEnd (fields 1 0))).1 = .wait
    ∧ (RenderPc.encode 1).event = some (.word 0x00000103) ∧ (RenderPc.finish 1).event = some (.word 0x00000106)
    ∧ (render [[]] .wait production).1 = .done := by decide

/-- R166, R282: a restart that cuts an ENCODE 1 short leaves its stores pending and counts the draw; one that does not,
neither. -/
theorem test_restart_cuts_encode_short :
    after (stepEvent .restart { held with outstanding := some (.encodeBank 1) })
      (fun t => decide (t.vis = ⟨.visible, .pending⟩) && t.draws == 1 && !t.busy && t.races 1) = true
    ∧ after (stepEvent .restart held) (fun t => decide (t.vis = ⟨.visible, .visible⟩) && t.draws == 0) = true := by decide

/-- R151, R264: an ENCODE 1 whose descriptor fails writes no word of the Frameset: no race, nothing cut short. R282: COP keeps
the bases BRIDGE bound. -/
theorem test_restart_keeps_frameset_and_bases :
    (let s : State := { held with outstanding := some (.encodeBank 1), port := { held.port with pixLen := 12 } }
     s.races 1 = false ∧ s.restart.vis = ⟨.visible, .visible⟩ ∧ s.restart.draws = 0)
    ∧ after (runEvents [.word 0x04, .restart] (mock 0x9E000000 0x00200000 [0x00, 0x00, 0x30, 0x4A]))
      (fun t => decide (t.bound = none ∧ t.bases = ⟨0x4A300000, 0x9E000000⟩)) = true := by decide

/-- After a short read and a restart, a new stream of the device answers a new BRIDGE (R282; log 22). -/
theorem test_bridge_after_short_read :
    after (runEvents [.word 0x04, .restart, .hsFresh, .hsDeliver 0x00, .hsDeliver 0x00, .hsDeliver 0x30, .hsDeliver 0x4A,
        .word 0x04]
      { mock 0x9E000000 0x00200000 [] with hs := { production.hs with inbox := [0x00, 0x00], ended := true } })
      (fun t => decide (t.bound = some ⟨0x4A300000, 0x9E000000⟩)) = true := by decide

/-! ### Witnesses: states and operands that meet the hypotheses of each obligation together -/

theorem witness_DecodeInvertsEncode :
    (Instr.finish 1).wf = true ∧ decodeWord 0x00000106#32 = .ok (.finish 1) := by decide

/-- One boundary word for each end of each range of R114. -/
theorem witness_IllegalWordRejected :
    State.reset.accepts ∧ ∀ w ∈ [0x00000000#32, 0x00000007#32, 0x0000000F#32, 0x00000013#32, 0x000000FF#32, 0x00000010#32,
      0x00000012#32, 0x00000200#32, 0x80000006#32, 0x00000101#32, 0x00000105#32], ∃ e, decodeCmd w = .error e := by
  refine ⟨⟨rfl, rfl⟩, ?_⟩
  simp only [List.forall_mem_cons]
  exact ⟨⟨_, rfl⟩, ⟨_, rfl⟩, ⟨_, rfl⟩, ⟨_, rfl⟩, ⟨_, rfl⟩, ⟨_, rfl⟩, ⟨_, rfl⟩, ⟨_, rfl⟩, ⟨_, rfl⟩, ⟨_, rfl⟩, ⟨_, rfl⟩, by simp⟩

theorem witness_StepRunsDecodedInstruction :
    ∃ (s : State) (w : Word) (rest : List Event) (i : Instr),
      s.cfg.ok = true ∧ s.sched = .word w :: rest ∧ decodeWord w = .ok i :=
  ⟨{ held with sched := [.word 0x00000103#32] }, 0x00000103#32, [], .encodeBank 1, test_cfgT_ok, rfl, rfl⟩

theorem witness_CmdWriteIssuesOrIsIgnored :
    (∃ s : State, s.outstanding = some .waitReady ∧ Instr.command? (.finish 1) = some (.finish 1)
      ∧ s.outstanding ≠ some (.finish 1) ∧ decodeWord 0x00000105#32 = .error .operandBitSet)
    ∧ ∃ (s : State) (w : Word) (c : Command), s.accepts ∧ decodeCmd w = .ok c ∧ s.allows c = true :=
  ⟨⟨{ State.reset with outstanding := some .waitReady }, rfl, rfl, by decide, rfl⟩,
    State.reset, 0x00000002#32, .buildDither, ⟨rfl, rfl⟩, rfl, rfl⟩

/-- A command outstanding, with an operand register `r` and a byte of the pixel buffer changed under it. -/
def changedUnder (c : Command) (r : PortReg) (s : State) : State :=
  { s with outstanding := some c, stale := [(r, 1)], pixStale := [(3, 0x80)] }

theorem changedUnder_takes {c : Command} {r : PortReg} {s : State} (h : r ∉ operandsOf c) : (changedUnder c r s).takes c :=
  .inr ⟨rfl, fun _ he => List.mem_singleton.1 he ▸ h⟩

/-- SW's step of a command outstanding, beside its issue, with a pixel and a register it does not read changed under it: what
BuildGammaLoadsTable, GammaOutsideDomainRefused, BuildDitherLoadsTable, EncodeCompletes, EncodeRejectsDimensions and
FinishPublishes assume. -/
theorem witness_takes_changed_under :
    (let s := changedUnder .buildGamma .pixW { State.reset with port := { State.reset.port with gammaHi := 0x3FF00000 } }
     s.takes .buildGamma ∧ s.gammaLut = none ∧ gammaInDomain (s.port.gammaHi ++ s.port.gammaLo) = true)
    ∧ (let s := changedUnder .buildGamma .pixW State.reset
       s.takes .buildGamma ∧ s.gammaLut = none ∧ (s.port.gammaHi ++ s.port.gammaLo) = 0#64)
    ∧ (let s := changedUnder .buildDither .pixW State.reset
       s.takes .buildDither ∧ s.ditherLut = none)
    ∧ (let s := changedUnder (.encodeBank 1) .gammaLo held
       s.takes (.encodeBank 1) ∧ s.gammaLut ≠ none ∧ s.ditherLut ≠ none ∧ s.bound ≠ none
        ∧ s.port.pixW.toNat = s.cfg.width ∧ s.port.pixH.toNat = s.cfg.height
        ∧ s.port.pixLen.toNat = s.cfg.width * s.cfg.height * 4)
    ∧ (let s := changedUnder (.encodeBank 1) .gammaLo { held with port := { held.port with pixLen := 12 } }
       s.takes (.encodeBank 1) ∧ s.port.pixLen.toNat ≠ s.cfg.width * s.cfg.height * 4)
    ∧ (let s := changedUnder (.finish 1) .pixLen encoded
       ∃ bs, s.takes (.finish 1) ∧ s.bound = some bs ∧ bs.ok = true) :=
  ⟨⟨changedUnder_takes (by decide), rfl, by decide⟩, ⟨changedUnder_takes (by decide), rfl, by decide⟩,
    ⟨changedUnder_takes (by decide), rfl⟩,
    ⟨changedUnder_takes (by decide), Option.some_ne_none _, Option.some_ne_none _, Option.some_ne_none _, rfl, rfl, rfl⟩,
    ⟨changedUnder_takes (by decide), by decide⟩, _, changedUnder_takes (by decide), rfl, by decide⟩

/-- With nothing outstanding, and, for the clauses that ask nothing, a held BRIDGE: SW polls `STATUS` with `BUSY` 1 and reads
`HS_STATE` = Sent. -/
theorem witness_PortRegistersReadAndWrite :
    State.reset.outstanding = none ∧ 0x10 ∈ [0x04, 0x08, 0x0C, 0x10, 0x28] ∧ 0x2C ≤ 0x2C
      ∧ ∃ s : State, s.outstanding = some .bridge ∧ s.statusWord = 0x01#32 ∧ s.hs.state.code = 2#32 :=
  ⟨rfl, by decide, by decide,
    { production with outstanding := some .bridge, hs := { production.hs with state := .sent } }, rfl, by decide, rfl⟩

theorem witness_ChangedOperandIsOldOrNew :
    ∃ s : State, s.outstanding ≠ none ∧ s.stale = [] ∧ s.pixStale = [] ∧ 15 < s.cfg.width * s.cfg.height * 4 :=
  ⟨{ held with outstanding := some (.encodeBank 1) }, by decide, rfl, rfl, by decide⟩

/-- The least and the greatest positive finite binary64. -/
theorem witness_BuildGammaLoadsTable :
    ∀ hl ∈ [(0x00000000#32, 0x00000001#32), (0x7FEFFFFF#32, 0xFFFFFFFF#32)],
      ∃ s : State, s.takes .buildGamma ∧ s.gammaLut = none ∧ gammaInDomain (s.port.gammaHi ++ s.port.gammaLo) = true
        ∧ (s.port.gammaHi, s.port.gammaLo) = hl := by
  simp only [List.forall_mem_cons]
  exact ⟨⟨{ State.reset with port := { State.reset.port with gammaLo := 1 } }, .inl ⟨rfl, rfl⟩, rfl, by decide, rfl⟩,
    ⟨{ State.reset with port := { State.reset.port with gammaHi := 0x7FEFFFFF, gammaLo := 0xFFFFFFFF } }, .inl ⟨rfl, rfl⟩, rfl,
      by decide, rfl⟩, by simp⟩

theorem witness_GammaReferenceRounds :
    (0 < 1 ∧ 255 ≤ 255 ∧ 0 < roundedPower 2 1 255) ∧ (0 < 1 ∧ 0 ≤ 255 ∧ roundedPower 2 1 0 = 0) := by decide +kernel

theorem witness_GammaReferenceMonotone : 0 < 9 ∧ 0 < 5 ∧ (0#8).toNat ≤ (255#8).toNat := by decide

/-- A `GAMMA` the spec does not settle, and the first and the last entry its `GAMMA_TABLE` gives. -/
theorem witness_BuildGammaLoadsTable_configured :
    ∃ c : Config, c.gamma ∉ [0x3FF0000000000000#64, 0x3FFCCCCCCCCCCCCD#64, 0x4000000000000000#64, 0x400199999999999A#64,
      0x4004000000000000#64, 0x4006666666666666#64] ∧ 0 < (1 : Fin 256).val ∧ (1 : Fin 256).val < 255
      ∧ 0 < (254 : Fin 256).val ∧ (254 : Fin 256).val < 255 :=
  ⟨{ Config.cfgT with gamma := 0x4008000000000000 }, by decide⟩

/-- Zero, minus zero, plus infinity and a NaN. -/
theorem witness_GammaOutsideDomainRefused :
    ∃ s : State, s.takes .buildGamma ∧ s.gammaLut = none ∧ (s.port.gammaHi ++ s.port.gammaLo) = 0#64 :=
  ⟨State.reset, .inl ⟨rfl, rfl⟩, rfl, by decide⟩

theorem witness_GammaOutsideDomainRefused_sign_and_exponent :
    (0x80000000#32 ++ 0#32).getLsbD 63 = true ∧ (0x7FF00000#32 ++ 0#32).extractLsb' 52 11 = 0x7FF#11
      ∧ (0x7FFFFFFF#32 ++ 0xFFFFFFFF#32).extractLsb' 52 11 = 0x7FF#11 := by decide

theorem witness_BuildDitherLoadsTable : State.reset.takes .buildDither ∧ State.reset.ditherLut = none :=
  ⟨.inl ⟨rfl, rfl⟩, rfl⟩

theorem witness_DitherBitsAtQuotients : (63 : Nat) < 64 ∧ (ditherMask 63).getLsbD 62 = true := by decide

theorem witness_DitherGapBound :
    (1#6 ≠ 0#6 ∧ (ditherMask 1).getLsbD 0 = true) ∧ (63#6 ≠ 0#6 ∧ (ditherMask 63).getLsbD 62 = true ∧ 61 + 1 < 63) := by
  decide

/-- What EncodeCompletes, EncodeDeterministic and, with the outcome, EncodeWritesClosedForm assume. -/
theorem witness_EncodeCompletes :
    ∃ (s : State) (bs : Bases) (gamma : GammaLut) (dither : DitherLut), s.accepts ∧ s.takes (.encodeBank 1) ∧
      s.gammaLut = some gamma ∧ s.ditherLut = some dither ∧ s.bound = some bs ∧ bs.ok = true ∧
      s.port.pixW.toNat = s.cfg.width ∧ s.port.pixH.toNat = s.cfg.height ∧
      s.port.pixLen.toNat = s.cfg.width * s.cfg.height * 4 ∧ s.cfg.wiringOk = true ∧ s.cfg.srcOk = true :=
  ⟨held, _, _, _, ⟨rfl, rfl⟩, .inl ⟨rfl, rfl⟩, rfl, rfl, rfl, by decide, rfl, rfl, rfl, by decide, by decide⟩

theorem held_encode_goes_on : ∃ t, exec (.encodeBank 1) held = .next t := by
  have h : exec (.encodeBank 1) held = bodyEncode 1 (held.issued (.encodeBank 1)) :=
    State.command_issue (s := held) (c := .encodeBank 1) (body := bodyEncode 1) (by decide) rfl (by decide)
  rw [h, bodyEncode_some (s := held.issued (.encodeBank 1)) rfl rfl, if_pos (by decide), if_pos (by decide),
    State.onShared_ok (by decide)]
  exact ⟨_, rfl⟩

theorem witness_EncodeWritesClosedForm :
    ∃ (s t : State) (bs : Bases) (gamma : GammaLut) (dither : DitherLut), s.takes (.encodeBank 1) ∧
      (s.outstanding = some (.encodeBank 1) → s.pixStale = []) ∧
      s.gammaLut = some gamma ∧ s.ditherLut = some dither ∧ s.bound = some bs ∧ bs.ok = true ∧
      s.port.pixW.toNat = s.cfg.width ∧ s.port.pixH.toNat = s.cfg.height ∧
      s.port.pixLen.toNat = s.cfg.width * s.cfg.height * 4 ∧ s.cfg.wiringOk = true ∧ s.cfg.srcOk = true ∧
      exec (.encodeBank 1) s = .next t := by
  obtain ⟨t, h⟩ := held_encode_goes_on
  exact ⟨held, t, _, _, _, .inl ⟨rfl, rfl⟩, fun _ => rfl, rfl, rfl, rfl, by decide, rfl, rfl, rfl, by decide, by decide, h⟩

/-- Two buffers that do differ in an alpha byte. -/
theorem witness_EncodeIgnoresAlpha :
    ∃ (t : State) (pix : Memory), (∀ a, a % 4 ≠ 3 → pix.byteAt Config.resetPixByte a = held.pixByte a)
      ∧ pix.byteAt Config.resetPixByte 3 ≠ held.pixByte 3 ∧ exec (.encodeBank 1) held = .next t := by
  obtain ⟨t, h⟩ := held_encode_goes_on
  refine ⟨t, Memory.fill [] 3 1 (fun _ => ~~~(held.pixByte 3)), fun a ha => ?_, ?_, h⟩
  · exact Memory.byteAt_fill_out (by omega)
  · rw [show (3 : Nat) = 3 + 0 from rfl, Memory.byteAt_fill_in (by omega)]
    generalize held.pixByte 3 = v
    revert v
    decide

theorem witness_OnCountIsLevel :
    Config.cfgT.wiringOk = true ∧ ⟨⟨0, 1, .blue, 0⟩, 2, 31⟩ ∈ Config.cfgT.wiring ∧ sourceOf Config.cfgT 0 1 0 1 = some (1, 1)
      ∧ bufferE3 (4 * (1 * Config.cfgT.width + 1) + Colour.blue.index) = BitVec.ofNat 8 (252 : Fin 256).val := by
  decide

/-- Each field of the descriptor wrong by itself. -/
theorem witness_EncodeRejectsDimensions :
    ∀ d ∈ [(1#32, 2#32, 16#32), (2#32, 3#32, 16#32), (2#32, 2#32, 15#32)],
      ∃ s : State, s.accepts ∧ s.gammaLut ≠ none ∧ s.ditherLut ≠ none ∧ s.bound ≠ none
        ∧ (s.port.pixW, s.port.pixH, s.port.pixLen) = d
        ∧ (s.port.pixW.toNat ≠ s.cfg.width ∨ s.port.pixH.toNat ≠ s.cfg.height
          ∨ s.port.pixLen.toNat ≠ s.cfg.width * s.cfg.height * 4) := by
  have at_ : ∀ d : Word × Word × Word, ∃ s : State, s.accepts ∧ s.gammaLut ≠ none ∧ s.ditherLut ≠ none ∧ s.bound ≠ none
      ∧ s.cfg = Config.cfgT ∧ (s.port.pixW, s.port.pixH, s.port.pixLen) = d := fun d =>
    ⟨{ held with port := { held.port with pixW := d.1, pixH := d.2.1, pixLen := d.2.2 } }, ⟨rfl, rfl⟩,
      Option.some_ne_none _, Option.some_ne_none _, Option.some_ne_none _, rfl, rfl⟩
  intro d hd
  obtain ⟨s, h1, h2, h3, h4, h5, h6⟩ := at_ d
  refine ⟨s, h1, h2, h3, h4, h6, ?_⟩
  rw [h5, show s.port.pixW = d.1 by rw [← h6], show s.port.pixH = d.2.1 by rw [← h6], show s.port.pixLen = d.2.2 by rw [← h6]]
  simp only [List.mem_cons, List.not_mem_nil, or_false] at hd
  rcases hd with rfl | rfl | rfl <;> decide

theorem witness_EncodeDefectFaults :
    (∃ s : State, s.cfg.ok = false) ∧ ∀ c ∈ [{ Config.cfgT with wiring := [⟨⟨0, 0, .red, 0⟩, 0, 4⟩, ⟨⟨0, 0, .green, 0⟩, 0, 4⟩] },
        { Config.cfgT with src := [⟨0, 0, 0, 0, 2, 0⟩] }, { Config.cfgT with src := [⟨0, 0, 0, 0, 0, 2⟩] }],
      (¬ (c.wiring.map (fun w => (w.gbank, w.bit))).Nodup ∨ ∃ e ∈ c.src, c.width ≤ e.x ∨ c.height ≤ e.y)
      ∧ ∃ s : State, s.cfg = c ∧ s.accepts ∧ s.gammaLut ≠ none ∧ s.ditherLut ≠ none ∧ s.bound ≠ none
        ∧ s.port.pixW.toNat = s.cfg.width ∧ s.port.pixH.toNat = s.cfg.height
        ∧ s.port.pixLen.toNat = s.cfg.width * s.cfg.height * 4 := by
  refine ⟨⟨{ State.reset with cfg := { Config.cfgT with height := 0 } }, by decide⟩, ?_⟩
  simp only [List.forall_mem_cons]
  exact ⟨⟨by decide, { held with cfg := _ }, rfl, ⟨rfl, rfl⟩, by simp [held, booted], by simp [held, booted],
      by simp [held, booted, State.reset, State.resetOf, Config.cfgT], rfl, rfl, rfl⟩,
    ⟨by decide, { held with cfg := _ }, rfl, ⟨rfl, rfl⟩, by simp [held, booted], by simp [held, booted],
      by simp [held, booted, State.reset, State.resetOf, Config.cfgT], rfl, rfl, rfl⟩,
    ⟨by decide, { held with cfg := _ }, rfl, ⟨rfl, rfl⟩, by simp [held, booted], by simp [held, booted],
      by simp [held, booted, State.reset, State.resetOf, Config.cfgT], rfl, rfl, rfl⟩, by simp⟩

theorem witness_LifecycleRejects :
    (State.reset.accepts ∧ State.reset.gammaLut = none ∧ State.reset.cfg.mode = .offline)
    ∧ (held.accepts ∧ held.gammaLut ≠ none ∧ held.ditherLut ≠ none)
    ∧ (production.accepts ∧ production.bound = none) :=
  ⟨⟨⟨rfl, rfl⟩, rfl, rfl⟩, ⟨⟨rfl, rfl⟩, Option.some_ne_none _, Option.some_ne_none _⟩, ⟨rfl, rfl⟩, rfl⟩

theorem witness_FatalLatch :
    (∃ s t : State, s.outstanding = none ∧ s.fatal = true ∧ step s = .next t ∧ ∀ rest, s.sched ≠ .restart :: rest)
    ∧ Instr.command? .waitReady ≠ none ∧ decodeWord 0x00000007#32 = .error .reservedOp :=
  ⟨⟨{ production with fatal := true, sched := [.hsEnd] }, _, rfl, rfl, rfl, by simp⟩, by decide, rfl⟩

theorem witness_ErrorEntry :
    State.reset.stale = [] ∧ State.reset.pixStale = [] ∧ ErrCode.sequence.errClass = .reject
      ∧ ErrCode.map.errClass = .fatal ∧ ErrCode.defect.errClass = .fault := ⟨rfl, rfl, rfl, rfl, rfl⟩

/-- A mock machine is ready to send; `held` below, with the payload sent and BRIDGE outstanding, has sent. -/
theorem mock_sendsPayload (fs size : Word) (reply : List Byte) : (mock fs size reply).sendsPayload :=
  ⟨.inl ⟨rfl, rfl⟩, rfl, rfl, .inr ⟨rfl, Nat.le_refl _⟩⟩

/-- BRIDGE held: the payload is sent, the command is outstanding, and the pattern source has stored a pixel since. -/
def heldBridge (s : State) : State := { changedUnder .bridge .pixW s with hs := { s.hs with state := .sent } }

theorem heldBridge_sendsPayload (fs size : Word) (reply : List Byte) : (heldBridge (mock fs size reply)).sendsPayload :=
  ⟨changedUnder_takes (by decide), rfl, rfl, .inl rfl⟩

/-- The Frameset ends at 2^32; with the reply there at issue, and arrived while BRIDGE was held. -/
theorem witness_BridgeBindsRegions :
    ∀ s ∈ [mock 0xFFE00000 0x00200000 [0x00, 0x00, 0x30, 0x4A], heldBridge (mock 0xFFE00000 0x00200000 [0x00, 0x00, 0x30, 0x4A])],
      ∃ a f : Word, s.sendsPayload ∧ s.hs.inbox = 0x00 :: 0x00 :: 0x30 :: 0x4A :: [] ∧ a = 0x4A#8 ++ 0x30#8 ++ 0x00#8 ++ 0x00#8 ∧
        a.toNat % 4 = 0 ∧ a.toNat + 20 ≤ 2 ^ 32 ∧
        s.loadWord (a.toNat + 0x00) = f ∧ (s.loadWord (a.toNat + 0x04)).toNat = 2097152 ∧
        f.toNat % 4 = 0 ∧ f.toNat + 2097152 = 2 ^ 32 ∧ regionsApart a f = true := by
  simp only [List.forall_mem_cons]
  exact ⟨⟨0x4A300000, 0xFFE00000, mock_sendsPayload .., rfl, by decide, by decide, by decide, by decide, by decide, by decide,
      by decide, by decide⟩,
    ⟨0x4A300000, 0xFFE00000, heldBridge_sendsPayload .., rfl, by decide, by decide, by decide, by decide, by decide, by decide,
      by decide, by decide⟩, by simp⟩

theorem witness_BridgeBindsRegions_last_address :
    (0xFFFFFFEC#32).toNat % 4 = 0 ∧ (0xFFFFFFEC#32).toNat + 20 = 2 ^ 32
      ∧ 0xFFFFFFEC#32 = 0xFF#8 ++ 0xFF#8 ++ 0xFF#8 ++ 0xEC#8 := by decide

/-- A size one word too small and one word too large. -/
theorem witness_BridgeLayoutMismatch :
    ∀ size ∈ [0x001FFFFC#32, 0x00200004#32],
      let s := mock 0x9E000000 size [0x00, 0x00, 0x30, 0x4A]
      s.sendsPayload ∧ (heldBridge s).sendsPayload ∧ 0x4A300000#32 = 0x4A#8 ++ 0x30#8 ++ 0x00#8 ++ 0x00#8 ∧
        (s.loadWord ((0x4A300000#32).toNat + 0x04)).toNat ≠ 2097152 := by
  intro size hs
  refine ⟨mock_sendsPayload .., heldBridge_sendsPayload .., by decide, ?_⟩
  rw [show (mock 0x9E000000 size [0x00, 0x00, 0x30, 0x4A]).loadWord ((0x4A300000#32).toNat + 0x04) = size from
    Memory.loadWord_storeWord ..]
  simp only [List.mem_cons, List.not_mem_nil, or_false] at hs
  rcases hs with rfl | rfl <;> decide

/-- The ControlBlock misaligned and past the end; the Frameset past the end; the Frameset over the ControlBlock. -/
theorem witness_BridgeMapError :
    (∃ a : Word, a = 0x4A#8 ++ 0x30#8 ++ 0x00#8 ++ 0x02#8 ∧ a.toNat % 4 ≠ 0)
    ∧ (∃ a : Word, a = 0xFF#8 ++ 0xFF#8 ++ 0xFF#8 ++ 0xF0#8 ∧ 2 ^ 32 < a.toNat + 20)
    ∧ (let s := mock 0xFFE00004 0x00200000 [0x00, 0x00, 0x30, 0x4A]
       s.sendsPayload ∧ (heldBridge s).sendsPayload ∧ s.loadWord ((0x4A300000#32).toNat + 0x00) = 0xFFE00004 ∧
        (s.loadWord ((0x4A300000#32).toNat + 0x04)).toNat = 2097152 ∧ 2 ^ 32 < (0xFFE00004#32).toNat + 2097152)
    ∧ (let s := mock 0x4A300010 0x00200000 [0x00, 0x00, 0x30, 0x4A]
       s.sendsPayload ∧ s.loadWord ((0x4A300000#32).toNat + 0x00) = 0x4A300010 ∧
        (s.loadWord ((0x4A300000#32).toNat + 0x04)).toNat = 2097152 ∧
        (0x4A300010#32).toNat % 4 = 0 ∧ (0x4A300010#32).toNat + 2097152 ≤ 2 ^ 32 ∧
        (0x4A300000#32).toNat < (0x4A300010#32).toNat + 2097152 ∧ (0x4A300010#32).toNat < (0x4A300000#32).toNat + 20) :=
  ⟨⟨_, rfl, by decide⟩, ⟨_, rfl, by decide⟩,
    ⟨mock_sendsPayload .., heldBridge_sendsPayload .., by decide, by decide, by decide⟩,
    mock_sendsPayload .., by decide, by decide, by decide, by decide, by decide, by decide⟩

theorem witness_BridgeChannelErrors :
    (∀ ch ∈ [(⟨.closed, false, 0, [], [], false⟩ : Channel), ⟨.closed, true, 0, [], [], false⟩],
      (ch.state ≠ .sent ∧ (ch.opens = false ∨ (ch.opens = true ∧ ch.accepts < Config.cfgT.payload.length)))
      ∧ ∃ s : State, s.hs = ch ∧ s.takes .bridge ∧ s.bound = none ∧ s.cfg.mode = .production)
    ∧ ∀ s ∈ [mock 0 0 [1, 2, 3], heldBridge (mock 0 0 [1, 2, 3])],
        let u : State := { s with hs := { s.hs with ended := true } }
        u.sendsPayload ∧ u.hs.inbox.length < 4 ∧ u.hs.ended = true := by
  refine ⟨fun ch hch => ⟨by revert ch; decide, { production with hs := ch }, rfl, .inl ⟨rfl, rfl⟩, rfl, rfl⟩, ?_⟩
  intro s hs
  rcases List.mem_pair.1 hs with rfl | rfl
  · exact ⟨⟨.inl ⟨rfl, rfl⟩, rfl, rfl, .inr ⟨rfl, Nat.le_refl _⟩⟩, by decide, rfl⟩
  · exact ⟨⟨changedUnder_takes (by decide), rfl, rfl, .inl rfl⟩, by decide, rfl⟩

theorem witness_BridgeHoldsForReply :
    let s := mock 0 0 [0, 0, 0]
    let rests : State := { s with outstanding := some .bridge }
    (s.hs.inbox.length < 4 ∧ s.hs.ended = false ∧ s.accepts ∧ s.bound = none ∧ s.cfg.mode = .production
      ∧ s.hs.state ≠ .sent ∧ s.hs.opens = true ∧ s.cfg.payload.length ≤ s.hs.accepts)
    ∧ (rests.hs.inbox.length < 4 ∧ rests.hs.ended = false ∧ rests.outstanding = some .bridge ∧ rests.hs.state ≠ .sent
      ∧ rests.hs.opens = true ∧ rests.cfg.payload.length ≤ rests.hs.accepts)
    ∧ (heldBridge s).hs.inbox.length < 4 ∧ (heldBridge s).hs.ended = false ∧ (heldBridge s).outstanding = some .bridge
      ∧ (heldBridge s).hs.state = .sent :=
  ⟨⟨by decide, rfl, ⟨rfl, rfl⟩, rfl, rfl, HsState.noConfusion, rfl, Nat.le_refl _⟩,
    ⟨by decide, rfl, rfl, HsState.noConfusion, rfl, Nat.le_refl _⟩, by decide, rfl, rfl, rfl⟩

theorem witness_WaitReadyGrants :
    ∀ a : Sbank, (fields (sbankWord a) (sbankWord a)).accepts ∧ (fields (sbankWord a) (sbankWord a)).bound ≠ none
      ∧ (fields (sbankWord a) (sbankWord a)).bases.ok = true
      ∧ (fields (sbankWord a) (sbankWord a)).readyBank = sbankWord a
      ∧ (fields (sbankWord a) (sbankWord a)).startBank = sbankWord a :=
  fun a => ⟨⟨rfl, rfl⟩, Option.some_ne_none _, by revert a; decide, by revert a; decide, by revert a; decide⟩

theorem witness_WaitReadyHolds :
    let s := fields 1 0
    let w : State := { s with outstanding := some .waitReady }
    let u : State := { fields 1 1 with outstanding := some .waitReady }
    (s.bases.ok = true ∧ s.accepts ∧ s.bound ≠ none ∧ s.readyBank ≠ s.startBank)
    ∧ (w.bases.ok = true ∧ w.outstanding = some .waitReady ∧ w.readyBank ≠ w.startBank)
    ∧ u.bases.ok = true ∧ u.outstanding = some .waitReady ∧ u.readyBank = sbankWord 1 ∧ u.startBank = sbankWord 1 :=
  ⟨⟨by decide, ⟨rfl, rfl⟩, Option.some_ne_none _, by decide⟩, ⟨by decide, rfl, by decide⟩, by decide, rfl, by decide, by decide⟩

theorem witness_FinishPublishes :
    ∃ (s : State) (bs : Bases), s.takes (.finish 1) ∧ s.bound = some bs ∧ bs.ok = true :=
  ⟨encoded, _, .inl ⟨rfl, rfl⟩, rfl, by decide⟩

/-- With nothing outstanding, and with an ENCODE of the sbank whose descriptor fails. -/
theorem witness_FetchReadsDoublePixel :
    ∀ o ∈ [none, some (Command.encodeBank 0)], ∃ s : State, s.outstanding = o ∧ s.cfg.cop = .contract ∧ s.cop.atBoundary = false ∧ s.bases.ok = true ∧ s.vis.get s.cop.cur = .visible
      ∧ s.mayStore s.cop.cur = false := by
  intro o ho
  rcases List.mem_pair.1 ho with rfl | rfl
  · exact ⟨encoded, rfl, rfl, rfl, by decide, rfl, by decide⟩
  · exact ⟨{ held with outstanding := some (.encodeBank 0), port := { held.port with pixH := 3 } }, rfl, rfl, rfl, by decide,
      rfl, by decide⟩

/-- Stores pending; an ENCODE of the sbank; one whose descriptor passes with a value it had before SW changed it. -/
theorem witness_RacingFetchDraws :
    (let s : State := { encoded with cop := { encoded.cop with cur := 1 } }
     s.cfg.cop = .contract ∧ s.cop.atBoundary = false ∧ s.bases.ok = true ∧ s.vis.get s.cop.cur ≠ .visible)
    ∧ (let s : State := { held with outstanding := some (.encodeBank 0) }
       s.cfg.cop = .contract ∧ s.cop.atBoundary = false ∧ s.bases.ok = true
        ∧ s.mayStore s.cop.cur = true)
    ∧ (let s : State :=
        { held with outstanding := some (.encodeBank 0), port := { held.port with pixLen := 12 }, stale := [(.pixLen, 16)] }
       s.mayStore s.cop.cur = true ∧ s.port.pixLen.toNat ≠ s.cfg.width * s.cfg.height * 4) :=
  ⟨⟨rfl, rfl, by decide, by decide⟩, ⟨rfl, rfl, by decide, by decide⟩, by decide, by decide⟩

/-- The last site of a traversal, the last of a Frame. -/
theorem witness_FetchAdvancesInStorageOrder :
    (cursor State.reset 63 15 63).cop.atBoundary = false ∧ (cursor State.reset 2 15 63).cop.atBoundary = false := ⟨rfl, rfl⟩

/-- A boundary that ends a traversal, and one of a Frame that ends none. -/
theorem witness_PollSwitches :
    (let s := atEnd (fields 1 0)
     s.cfg.cop = .contract ∧ s.cop.atBoundary = true ∧ s.bases.ok = true ∧ s.readyBank = sbankWord 1 ∧ 1 ≠ s.cop.cur
      ∧ s.cop.f = 0#6 ∧ s.cop.r = 0#4 ∧ s.cop.p = 0#6)
    ∧ (let s := atEnd (cursor { fields 1 0 with cfg := { Config.cfgT with copPoll := .frame } } 3 0 0)
       s.cfg.cop = .contract ∧ s.cop.atBoundary = true ∧ s.bases.ok = true ∧ s.readyBank = sbankWord 1 ∧ 1 ≠ s.cop.cur
        ∧ ¬ (s.cop.f = 0#6 ∧ s.cop.r = 0#4 ∧ s.cop.p = 0#6)) :=
  ⟨⟨rfl, rfl, by decide, by decide, by decide, rfl, rfl, rfl⟩, rfl, rfl, by decide, by decide, by decide, by decide⟩

theorem witness_PollReplays :
    let s := atEnd (fields 1 1)
    s.cfg.cop = .contract ∧ s.cop.atBoundary = true ∧ s.bases.ok = true ∧ s.readyBank = sbankWord s.cop.cur :=
  ⟨rfl, rfl, by decide, by decide⟩

/-- The least illegal value. -/
theorem witness_PollFaultsOnIllegalReady :
    (let s := atEnd (fields 2 0)
     s.cfg.cop = .contract ∧ s.cop.atBoundary = true ∧ s.bases.ok = true ∧ 1 < s.readyBank.toNat)
    ∧ (let s := { fields 2 0 with cfg := { Config.cfgT with cop := .simulated } }
       s.cfg.cop = .simulated ∧ s.bases.ok = true ∧ 1 < s.readyBank.toNat) :=
  ⟨⟨rfl, rfl, by decide, by decide⟩, rfl, by decide, by decide⟩

theorem witness_SimulatedPollCopies :
    let at_ := fun r => { fields r 0 with cfg := { Config.cfgT with cop := .simulated } }
    ((at_ 1).cfg.cop = .simulated ∧ (at_ 1).bases.ok = true ∧ (at_ 1).readyBank = sbankWord 1 ∧ (at_ 1).startBank ≠ sbankWord 1)
    ∧ (at_ 0).cfg.cop = .simulated ∧ (at_ 0).bases.ok = true ∧ (at_ 0).readyBank = sbankWord 0
      ∧ (at_ 0).startBank = sbankWord 0 :=
  ⟨⟨rfl, by decide, by decide, by decide⟩, rfl, by decide, by decide, by decide⟩

theorem witness_CopWritesOnlyItsFields :
    (∃ t, exec .copFetch State.reset = .next t) ∧ ∃ t, exec .copPoll (atEnd (fields 1 0)) = .next t := ⟨⟨_, rfl⟩, _, rfl⟩

theorem witness_MonSampleReadsCounter : State.reset.bound ≠ none ∧ State.reset.bases.ok = true :=
  ⟨Option.some_ne_none _, by decide⟩

theorem witness_DisabledStepsStandStill :
    (atEnd State.reset).cop.atBoundary = true ∧ (State.reset.cfg.cop = .contract ∧ State.reset.cop.atBoundary = false)
      ∧ production.bound = none ∧ ∃ s : State, s.cfg.cop = .absent :=
  ⟨rfl, ⟨rfl, rfl⟩, rfl, { State.reset with cfg := { Config.cfgT with cop := .absent } }, rfl⟩

theorem witness_RestartLeavesCoprocessor :
    (∀ b, held.mayStore b = false) ∧ ∃ s : State, s.mayStore 1 = true :=
  ⟨by decide, { held with outstanding := some (.encodeBank 1) }, by decide⟩

theorem witness_ResetIsLegal : ∃ c : Config, c.ok = true := ⟨Config.cfgT, test_cfgT_ok⟩

theorem legal_of_empty (s : State) (h : s.mem = []) (hp : s.pix = []) (hb : s.bound = none) (ho : s.outstanding = none)
    (hr : s.port.result = 0) (hc : s.port.errCode = 0) (hm : s.cfg.mode = .production) : s.Legal where
  memWf := by rw [h]; exact List.Pairwise.nil
  pixWf := by rw [hp]; exact List.Pairwise.nil
  memInSpace := by rw [h]; intro c hc; cases hc
  pixInBuffer := by rw [hp]; intro c hc; cases hc
  boundOk := by rw [hb]; intro _ h; cases h
  resultLegal := by rw [hr]; decide
  errCodeLegal := by rw [hc]; decide
  pendingLegal := by rw [ho]; intro _ h; cases h
  boundShared := by rw [hb]; intro _ h; cases h
  offlineShared := by rw [hm]; intro h; cases h

/-- A legal state with a step that changes it: also what TablesAndConfigurationImmutable assumes. -/
theorem witness_StepKeepsLegal :
    ∃ s t : State, s.Legal ∧ step s = .next t ∧ (∀ rest, s.sched ≠ .restart :: rest) ∧ s.gammaLut = some (gammaEntries Config.cfgT 1)
      ∧ s.ditherLut = some ditherEntries :=
  ⟨{ production with
      mem := [], gammaLut := some (gammaEntries Config.cfgT 1), ditherLut := some ditherEntries
      sched := [.hsDevice true 2] }, _, legal_of_empty _ rfl rfl rfl rfl rfl rfl rfl, rfl, by simp, rfl, rfl⟩

theorem held_safe : held.HandoffSafe where
  basesOk := by decide
  apart := by decide
  curStarted := by decide
  readyLegal := by decide
  held := by
    intro b h
    rcases h with h | h
    · obtain rfl : 1 = b := Own.granted.inj h
      decide
    · cases h
  unpublished := by
    intro b h
    exact absurd h (by revert b; decide)
  encoding := by intro b h; cases h
  activeVisible := by decide

/-- An ENCODE that keeps the contract: also what BankStateTransitions assumes. -/
theorem witness_StepKeepsHandoffSafe :
    ∃ s t : State, s.HandoffSafe ∧ s.nextKeepsContract ∧ step s = .next t ∧ t.bases = s.bases := by
  refine ⟨{ held with sched := [.portWrite 0x00 0x103] }, _, ?_, ?_, rfl, rfl⟩
  · exact { basesOk := held_safe.basesOk, apart := held_safe.apart, curStarted := held_safe.curStarted,
            readyLegal := held_safe.readyLegal, held := held_safe.held, unpublished := held_safe.unpublished,
            encoding := held_safe.encoding, activeVisible := held_safe.activeVisible }
  · intro e rest c he hc
    cases he
    cases hc
    exact .inl rfl

/-- A handoff pending: sbank 1 published and not yet adopted. -/
theorem witness_WaitReadyProgress :
    ∃ s : State, s.HandoffSafe ∧ s.outstanding = some .waitReady ∧ s.cfg.cop = .contract ∧ s.readyBank ≠ s.startBank :=
  ⟨{ fields 1 0 with outstanding := some .waitReady, vis := ⟨.visible, .released⟩ },
    { basesOk := by decide
      apart := by decide
      curStarted := by decide
      readyLegal := by decide
      held := fun b h => by rcases h with h | h <;> cases h
      unpublished := fun b h => absurd h (by revert b; decide)
      encoding := fun b h => by cases h
      activeVisible := by decide }, rfl, rfl, by decide⟩

theorem witness_ForwardGuarantee :
    ∃ (s : State) (b : Sbank) (bs : Bases) (gamma : GammaLut) (dither : DitherLut), s.HandoffSafe ∧ s.accepts ∧
      s.own.holds b ∧ s.gammaLut = some gamma ∧ s.ditherLut = some dither ∧ s.bound = some bs ∧
      s.port.pixW.toNat = s.cfg.width ∧ s.port.pixH.toNat = s.cfg.height ∧
      s.port.pixLen.toNat = s.cfg.width * s.cfg.height * 4 ∧ s.cfg.wiringOk = true ∧ s.cfg.srcOk = true ∧
      s.cfg.cop = .contract ∧ s.cop.atBoundary = true :=
  ⟨atEnd held, 1, _, _, _,
    { basesOk := held_safe.basesOk, apart := held_safe.apart, curStarted := held_safe.curStarted,
      readyLegal := held_safe.readyLegal, held := held_safe.held, unpublished := held_safe.unpublished,
      encoding := held_safe.encoding, activeVisible := held_safe.activeVisible },
    ⟨rfl, rfl⟩, .inl rfl, rfl, rfl, rfl, rfl, rfl, rfl, by decide, by decide, rfl, rfl⟩

/-- A COP.POLL that switches: no FINISH and no ENCODE; also what OnlyEncodeWritesFrameset assumes. -/
theorem witness_ControlBlockSingleWriters :
    ∃ s t : State, s.bases.ok = true ∧ regionsApart s.bases.cbBase s.bases.fsBase = true ∧ step s = .next t
      ∧ t.bases = s.bases ∧ (∀ e rest, s.sched = e :: rest → ∀ b, e.command? ≠ some (.finish b))
      ∧ (∀ e rest, s.sched = e :: rest → ∀ b, e.command? ≠ some (.encodeBank b)) := by
  refine ⟨{ atEnd (fields 1 0) with sched := [.word 0x11] }, _, by decide, by decide, rfl, rfl, ?_, ?_⟩
  all_goals
    intro e rest he b
    cases he
    decide +revert

theorem witness_AbsentCoprocessorStuck :
    ∃ s t : State, s.cfg.cop = .absent ∧ s.outstanding = some .waitReady ∧ s.readyBank ≠ s.startBank ∧
      step s = .next t ∧ ∀ rest, s.sched ≠ .restart :: rest :=
  ⟨{ fields 1 0 with cfg := { Config.cfgT with cop := .absent }, outstanding := some .waitReady, sched := [.word 0x11] }, _,
    rfl, rfl, by decide, rfl, by simp⟩

end Sys2Proof.Tests
end

section
/-!
PROOFS. The gamma table (40_tables.md R131 to R135): its ends, its settled entries, and BUILDGAMMA's completion.
-/

namespace Sys2Proof.Machine

/-! ### The reference table's ends -/

/-- R135 (1): a positive power of 0 is 0, below every rounding threshold. -/
theorem roundedPower_zero {a : Nat} (b : Nat) (ha : 0 < a) : roundedPower a b 0 = 0 := by
  unfold roundedPower
  rw [List.length_eq_zero_iff, List.filter_eq_nil_iff]
  intro k _
  have hpos : 0 < (2 * k + 1) ^ b * 255 ^ a := by positivity
  rw [decide_eq_true_iff, Nat.zero_pow ha, Nat.zero_mul]
  exact hpos.not_ge

/-- R135 (2): 1 to any power is 1, and every threshold `k + 1/2` with `k < 255` is at most 255. -/
theorem roundedPower_255 (a b : Nat) : roundedPower a b 255 = 255 := by
  unfold roundedPower
  rw [List.filter_eq_self.2, List.length_range]
  intro k hk
  have hk : 2 * k + 1 ≤ 510 := by have := List.mem_range.1 hk; omega
  rw [decide_eq_true_iff, Nat.mul_comm]
  exact Nat.mul_le_mul_left _ (Nat.pow_le_pow_left hk b)

theorem referenceLevel_zero {a : Nat} (b : Nat) (ha : 0 < a) : referenceLevel a b 0#8 = 0#6 :=
  congrArg (fun r => BitVec.ofNat 6 (r / 4)) (roundedPower_zero b ha)

theorem referenceLevel_255 (a b : Nat) : referenceLevel a b 255#8 = 63#6 :=
  congrArg (fun r => BitVec.ofNat 6 (r / 4)) (roundedPower_255 a b)

/-! ### The settled gammas -/

theorem settledGamma_pos {gamma : BitVec 64} {a b : Nat} (h : settledGamma gamma = some (a, b)) : 0 < a := by
  unfold settledGamma at h
  split_ifs at h <;> cases h <;> decide

theorem settledGamma_eq_none {gamma : BitVec 64} (h : gamma ∉ [0x3FF0000000000000#64, 0x3FFCCCCCCCCCCCCD#64,
    0x4000000000000000#64, 0x400199999999999A#64, 0x4004000000000000#64, 0x4006666666666666#64]) :
    settledGamma gamma = none := by
  simp only [List.mem_cons, List.not_mem_nil, or_false, not_or] at h
  obtain ⟨h1, h2, h3, h4, h5, h6⟩ := h
  unfold settledGamma
  rw [if_neg h1, if_neg h2, if_neg h3, if_neg h4, if_neg h5, if_neg h6]

/-! ### `GAMMA_TABLE` -/

theorem gammaTable_settled {gamma : BitVec 64} {a b : Nat} (h : settledGamma gamma = some (a, b)) (c : Config) (v : Byte) :
    gammaTable c gamma v = referenceLevel a b v := by
  unfold gammaTable
  rw [h]

theorem gammaTable_zero (c : Config) (gamma : BitVec 64) : gammaTable c gamma 0#8 = 0#6 := by
  cases h : settledGamma gamma with
  | some ab => rw [gammaTable_settled h, referenceLevel_zero _ (settledGamma_pos h)]
  | none => unfold gammaTable; rw [h]; rfl

theorem gammaTable_255 (c : Config) (gamma : BitVec 64) : gammaTable c gamma 255#8 = 63#6 := by
  cases h : settledGamma gamma with
  | some ab => rw [gammaTable_settled h, referenceLevel_255]
  | none => unfold gammaTable; rw [h]; rfl

/-- Between the ends an unsettled `GAMMA` has the configuration's own entries (R134). -/
theorem gammaTable_configured {c : Config} (h : settledGamma c.gamma = none) {v : Fin 256} (h0 : 0 < v.val)
    (h255 : v.val < 255) : gammaTable c c.gamma (BitVec.ofNat 8 v.val) = c.gammaTable[v] := by
  have hne0 : BitVec.ofNat 8 v.val ≠ 0#8 := by bv_omega
  have hne255 : BitVec.ofNat 8 v.val ≠ 255#8 := by bv_omega
  have hv : (BitVec.ofNat 8 v.val).toNat = v.val := Nat.mod_eq_of_lt v.isLt
  unfold gammaTable
  rw [h]
  simp only [if_neg hne0, if_neg hne255, if_true, hv]
  rfl

theorem gammaEntries_getElem (c : Config) (gamma : BitVec 64) (v : Fin 256) :
    (gammaEntries c gamma)[v] = gammaTable c gamma (BitVec.ofNat 8 v.val) :=
  Vector.getElem_ofFn v.isLt

/-! ### BUILDGAMMA -/

theorem bodyBuildGamma_inDomain {s : State} (h : gammaInDomain s.gammaOperand = true) :
    bodyBuildGamma s = .next { s.complete 0#32 with gammaLut := some (gammaEntries s.cfg s.gammaOperand) } := if_pos h

/-- BUILDGAMMA reads its gamma as the port has it. -/
theorem State.Fresh.gammaOperand {s : State} {err : Bool} {st : List (PortReg × Word)} {px : Memory}
    (h : s.Fresh .buildGamma st px) :
    (s.started .buildGamma err st px).gammaOperand = s.port.gammaHi ++ s.port.gammaLo :=
  congrArg₂ (· ++ ·) (h.portOperand (r := .gammaHi) (by decide) (by decide))
    (h.portOperand (r := .gammaLo) (by decide) (by decide))

/-- R131: BUILDGAMMA's completion, with the entries it loads named. -/
theorem exec_buildGamma_inDomain {s : State} (ht : s.takes .buildGamma) (hlut : s.gammaLut = none)
    (hdom : gammaInDomain (s.port.gammaHi ++ s.port.gammaLo) = true) :
    exec .buildGamma s = .next { s.withCompletion 0#32 with
      gammaLut := some (gammaEntries s.cfg (s.port.gammaHi ++ s.port.gammaLo)) } := by
  have hallows : s.allows .buildGamma = true := by simp [State.allows, State.gammaValid, hlut]
  obtain ⟨err, st, px, hfresh, hrun⟩ := State.command_takes ht hallows bodyBuildGamma
  have hbody := bodyBuildGamma_inDomain (s := s.started .buildGamma err st px) (by rwa [hfresh.gammaOperand])
  rw [hfresh.complete, hfresh.gammaOperand] at hbody
  exact hrun.trans hbody

/-- Settles O10: the three clauses on `GAMMA_TABLE` by whether the gamma is settled, the completion by reaching BUILDGAMMA's own
part with its operands fresh. -/
theorem buildGammaLoadsTable : Obligations.BuildGammaLoadsTable := by
  refine ⟨?settled, fun c gamma => ⟨gammaTable_zero c gamma, gammaTable_255 c gamma⟩,
    fun c v hgamma => gammaTable_configured (settledGamma_eq_none hgamma),
    fun s ht hlut hdom => ⟨_, exec_buildGamma_inDomain ht hlut hdom, gammaEntries_getElem _ _⟩⟩
  case settled =>
    have hsettled : ∀ x ∈ [(0x3FF0000000000000#64, 1, 1), (0x3FFCCCCCCCCCCCCD#64, 9, 5), (0x4000000000000000#64, 2, 1),
        (0x400199999999999A#64, 11, 5), (0x4004000000000000#64, 5, 2), (0x4006666666666666#64, 14, 5)],
        settledGamma x.1 = some x.2 := by decide
    exact fun x hx c v => gammaTable_settled (hsettled x hx) c v

end Sys2Proof.Machine
end

section
/-!
PROOFS. The host port (10_state.md R28 to R34): what each access does, and what a change under a command leaves to read.
-/

namespace Sys2Proof.Machine

/-! ### Operand registers -/

/-- The port with the operand register `r` at `v`; a register that is no operand is left. -/
def HostPort.withOperand (p : HostPort) (r : PortReg) (v : Word) : HostPort :=
  match r with
  | .pixW => { p with pixW := v }
  | .pixH => { p with pixH := v }
  | .pixLen => { p with pixLen := v }
  | .gammaLo => { p with gammaLo := v }
  | .gammaHi => { p with gammaHi := v }
  | .cmd | .status | .result | .errCode | .errInfo | .hsState => p

/-- The five registers SW writes besides `CMD`, at their offsets (R28). -/
def operandRegs : List (Nat × PortReg) :=
  [(0x14, .pixW), (0x18, .pixH), (0x1C, .pixLen), (0x20, .gammaLo), (0x24, .gammaHi)]

theorem forall_operandRegs {P : Nat × PortReg → Prop} : (∀ x ∈ operandRegs, P x) ↔
    P (0x14, .pixW) ∧ P (0x18, .pixH) ∧ P (0x1C, .pixLen) ∧ P (0x20, .gammaLo) ∧ P (0x24, .gammaHi) := by
  simp [operandRegs]

theorem stepEvent_portWrite_operand (s : State) (v : Word) : ∀ x ∈ operandRegs,
    stepEvent (.portWrite x.1 v) s = .next (s.setOperand x.2 (s.port.withOperand x.2 v)) :=
  forall_operandRegs.2 ⟨rfl, rfl, rfl, rfl, rfl⟩

theorem State.setOperand_idle {s : State} (h : s.outstanding = none) (r : PortReg) (p : HostPort) :
    s.setOperand r p = { s with port := p } := by
  unfold State.setOperand
  rw [s.not_busy_iff.2 h]
  rfl

theorem State.portRead_setOperand_self (s : State) (v : Word) : ∀ x ∈ operandRegs,
    (s.setOperand x.2 (s.port.withOperand x.2 v)).portRead x.2 = v :=
  forall_operandRegs.2 ⟨rfl, rfl, rfl, rfl, rfl⟩

/-- A write of one register leaves what the others read as, `STATUS` and `HS_STATE` included. -/
theorem State.portRead_setOperand_ne (s : State) {r r' : PortReg} (h : r' ≠ r) (v : Word) :
    (s.setOperand r (s.port.withOperand r v)).portRead r' = s.portRead r' := by
  cases r' with
  | cmd | status | hsState => rfl
  | result | errCode | errInfo => cases r <;> rfl
  | pixW => cases r with
    | pixW => exact absurd rfl h
    | _ => rfl
  | pixH => cases r with
    | pixH => exact absurd rfl h
    | _ => rfl
  | pixLen => cases r with
    | pixLen => exact absurd rfl h
    | _ => rfl
  | gammaLo => cases r with
    | gammaLo => exact absurd rfl h
    | _ => rfl
  | gammaHi => cases r with
    | gammaHi => exact absurd rfl h
    | _ => rfl

/-! ### Reads of a command under which something was changed once -/

theorem staleOf_singleton_self {κ α : Type} [DecidableEq κ] (k : κ) (x : α) : staleOf k [(k, x)] = [x] := by
  simp [staleOf]

theorem staleOf_singleton_ne {κ α : Type} [DecidableEq κ] {k k' : κ} (h : k' ≠ k) (x : α) : staleOf k' [(k, x)] = [] := by
  simp [staleOf, h.symm]

theorem pick_singleton {α : Type} (now old : α) (n : Nat) : pick now [old] n = now ∨ pick now [old] n = old := by
  simpa using mem_pick now [old] n

section Changed

variable {s : State}

/-- The read of the register changed gives its value now or the one replaced (93 U12). -/
theorem State.portOperand_changed {r : PortReg} {old : Word} (h : s.stale = [(r, old)]) :
    s.portOperand r = s.portRead r ∨ s.portOperand r = old := by
  unfold State.portOperand
  rw [h, staleOf_singleton_self]
  exact pick_singleton ..

theorem State.portOperand_of_other_changed {r r' : PortReg} {old : Word} (h : s.stale = [(r, old)]) (hne : r' ≠ r) :
    s.portOperand r' = s.portRead r' := by
  unfold State.portOperand
  rw [h, staleOf_singleton_ne hne]
  rfl

/-- The read of the pixel byte changed gives its value now or the one replaced (41_encoder.md R168). -/
theorem State.pixOperand_changed {a : Nat} {old : Byte} (h : s.pixStale = [(a, old)]) (key : Nat) :
    s.pixOperand key a = s.pixByte a ∨ s.pixOperand key a = old := by
  unfold State.pixOperand
  rw [h, staleOf_singleton_self]
  exact pick_singleton ..

theorem State.pixOperand_of_other_changed {a a' : Nat} {old : Byte} (h : s.pixStale = [(a, old)]) (hne : a' ≠ a) (key : Nat) :
    s.pixOperand key a' = s.pixByte a' := by
  unfold State.pixOperand
  rw [h, staleOf_singleton_ne hne]
  rfl

end Changed

/-- A write of an operand register under a command that read nothing changed before. -/
theorem State.setOperand_stale_busy {s : State} (ho : s.outstanding ≠ none) (hst : s.stale = []) (r : PortReg) (p : HostPort) :
    (s.setOperand r p).stale = [(r, s.portRead r)] := by
  rw [State.setOperand_stale, if_pos (s.busy_iff.2 ho), hst]

/-! ### Pixel stores -/

/-- The state a store of pixel byte `a` under a command leaves: the byte in the buffer and the one it replaces kept (R168). -/
def State.withPixel (s : State) (a : Nat) (v : Byte) : State :=
  { s with pix := s.pix.fill a 1 (fun _ => v), pixStale := (a, s.pixByte a) :: s.pixStale }

theorem stepEvent_pixStore_busy {s : State} (ho : s.outstanding ≠ none) {a : Nat} (ha : a < s.cfg.width * s.cfg.height * 4)
    (v : Byte) : stepEvent (.pixStore a v) s = .next (s.withPixel a v) := by
  show s.pixStore a v = _
  unfold State.pixStore State.withPixel
  rw [if_pos ha, s.busy_iff.2 ho]
  rfl

theorem State.pixByte_withPixel_self (s : State) (a : Nat) (v : Byte) : (s.withPixel a v).pixByte a = v :=
  Memory.byteAt_fill_in (i := 0) Nat.one_pos

theorem State.pixByte_withPixel_ne (s : State) {a a' : Nat} (h : a' ≠ a) (v : Byte) :
    (s.withPixel a v).pixByte a' = s.pixByte a' :=
  Memory.byteAt_fill_out (by omega)

/-- Settles O8: after one change under the command the values kept are the one replaced, so a read picks between that and the
present one, and a read of anything else has nothing to pick from. -/
theorem changedOperandIsOldOrNew : Obligations.ChangedOperandIsOldOrNew := by
  intro s ho hst hpx
  constructor
  · intro v x hx
    have hstale := s.setOperand_stale_busy ho hst x.2 (s.port.withOperand x.2 v)
    have hself := s.portRead_setOperand_self v x hx
    have hread := State.portOperand_changed hstale
    rw [hself] at hread
    refine ⟨_, stepEvent_portWrite_operand s v x hx, hself, hread, fun r hr => ?_⟩
    rw [State.portOperand_of_other_changed hstale hr, s.portRead_setOperand_ne hr]
  · intro a v ha
    have hstale : (s.withPixel a v).pixStale = [(a, s.pixByte a)] := congrArg (_ :: ·) hpx
    have hself := s.pixByte_withPixel_self a v
    have hread := State.pixOperand_changed hstale
    rw [hself] at hread
    refine ⟨_, stepEvent_pixStore_busy ho ha v, hself, hread, fun key a' hne => ?_⟩
    rw [State.pixOperand_of_other_changed hstale hne, s.pixByte_withPixel_ne hne]

/-! ### `CMD` -/

theorem stepEvent_cmd_legal {w : Word} {c : Command} (h : decodeCmd w = .ok c) (s : State) :
    stepEvent (.portWrite 0x00 w) s = s.command c .next := by
  simp only [stepEvent, portReg?, State.portWrite, h]

theorem stepEvent_cmd_illegal {w : Word} {e : DecodeError} (h : decodeCmd w = .error e) (s : State) :
    stepEvent (.portWrite 0x00 w) s = s.badCommand w := by
  simp only [stepEvent, portReg?, State.portWrite, h]

theorem stepEvent_word_illegal {w : Word} {e : DecodeError} (h : decodeWord w = .error e) (s : State) :
    stepEvent (.word w) s = s.badCommand w := by
  simp only [stepEvent, State.traceWord, h]

theorem State.badCommand_busy {s : State} (h : s.outstanding ≠ none) (w : Word) : s.badCommand w = .next s :=
  if_pos (s.busy_iff.2 h)

/-- Every command's meaning is SW's step of it over a part of its own. -/
theorem exec_eq_command {i : Instr} {c : Command} (h : i.command? = some c) (s : State) :
    ∃ body, exec i s = s.command c body := by
  cases i with
  | buildGamma | buildDither | encodeBank | bridge | waitReady | finish => cases h; exact ⟨_, rfl⟩
  | copFetch | copPoll | monSample => cases h

theorem stepEvent_cmd_busy {s : State} (ho : s.outstanding ≠ none) (w : Word) :
    stepEvent (.portWrite 0x00 w) s = .next s := by
  cases hd : decodeCmd w with
  | error e => rw [stepEvent_cmd_illegal hd, State.badCommand_busy ho]
  | ok c =>
    rw [stepEvent_cmd_legal hd]
    by_cases hc : s.outstanding = some c
    · exact State.command_resume hc
    · exact State.command_ignored (s.busy_iff.2 ho) hc

/-- Settles O6: under BUSY every form of a write to `CMD` is ignored, by whether its word is legal; with none outstanding the
lifecycle's issue leaves `State.issued`. -/
theorem cmdWriteIssuesOrIsIgnored : Obligations.CmdWriteIssuesOrIsIgnored := by
  refine fun s w => ⟨fun ho => stepEvent_cmd_busy ho w, ?other, ?illegal, ?issue, rfl⟩
  case other =>
    intro i c hc ho hne
    obtain ⟨body, hexec⟩ := exec_eq_command hc s
    rw [hexec, State.command_ignored (s.busy_iff.2 ho) hne]
  case illegal =>
    intro e he ho
    rw [stepEvent_word_illegal he, State.badCommand_busy ho]
  case issue =>
    rintro c ⟨ho, hf⟩ hd ha
    rw [stepEvent_cmd_legal hd, State.command_issue (s.not_busy_iff.2 ho) hf ha]
    rfl

/-! ### The other registers -/

theorem portReg?_eq_none {off : Nat} (h : 0x2C ≤ off) : portReg? off = none := by
  obtain ⟨k, rfl⟩ := Nat.exists_eq_add_of_le' h
  rfl

theorem stepEvent_portWrite_noRegister {off : Nat} (h : portReg? off = none) (s : State) (v : Word) :
    stepEvent (.portWrite off v) s = .refused .noSuchPortRegister := by
  simp only [stepEvent, h]

theorem stepEvent_portRead_noRegister {off : Nat} (h : portReg? off = none) (s : State) :
    stepEvent (.portRead off) s = .refused .noSuchPortRegister := by
  simp only [stepEvent, h]

/-- Settles O7: the operand writes by `stepEvent_portWrite_operand`, the other accesses register by register. -/
theorem portRegistersReadAndWrite : Obligations.PortRegistersReadAndWrite := by
  refine fun s v => ⟨fun ho => ?operands, ?ignored, ?outside, ?reads, rfl⟩
  case operands =>
    have hwrites : ∀ x ∈ operandRegs,
        stepEvent (.portWrite x.1 v) s = .next { s with port := s.port.withOperand x.2 v } := by
      intro x hx
      rw [stepEvent_portWrite_operand s v x hx, State.setOperand_idle ho]
    exact forall_operandRegs.1 hwrites
  case ignored =>
    simp only [List.forall_mem_cons, List.not_mem_nil, false_imp_iff, implies_true, and_true]
    exact ⟨rfl, rfl, rfl, rfl, rfl⟩
  case outside =>
    exact fun off hoff => ⟨stepEvent_portWrite_noRegister (portReg?_eq_none hoff) s v,
      stepEvent_portRead_noRegister (portReg?_eq_none hoff) s⟩
  case reads =>
    simp only [List.forall_mem_cons, List.not_mem_nil, false_imp_iff, implies_true, and_true]
    exact ⟨rfl, rfl, rfl, rfl, rfl, rfl, rfl, rfl, rfl, rfl, rfl⟩

end Sys2Proof.Machine
end

section
/-!
PROOFS. What every step keeps of the configuration, the built tables (10_state.md R27) and the ControlBlock (R36), by cases on
what an event can do (`Moves`).
-/

namespace Sys2Proof.Machine

/-! ### The configuration and the tables -/

theorem AtWork.cfg {s s0 : State} {c : Command} (h : AtWork s c s0) : s0.cfg = s.cfg := h.same.1

theorem AtWork.gammaLut {s s0 : State} {c : Command} (h : AtWork s c s0) : s0.gammaLut = s.gammaLut := by
  cases h <;> rfl

theorem AtWork.ditherLut {s s0 : State} {c : Command} (h : AtWork s c s0) : s0.ditherLut = s.ditherLut := by
  cases h <;> rfl

theorem AtWork.mem {s s0 : State} {c : Command} (h : AtWork s c s0) : s0.mem = s.mem := by
  cases h <;> rfl

/-- A command at work in a legal state is one the lifecycle allows (60_exceptions.md R260). -/
theorem AtWork.allows {s s0 : State} {c : Command} (h : AtWork s c s0) (hs : s.Legal) : s.allows c = true := by
  cases h with
  | resumed ho => exact (hs.pendingLegal c ho).1
  | issued ho hf ha => exact ha

/-- The schedule is no part of what makes a state legal. -/
theorem State.Legal.withSched {s : State} (h : s.Legal) (l : List Event) : { s with sched := l }.Legal :=
  ⟨h.memWf, h.pixWf, h.memInSpace, h.pixInBuffer, h.boundOk, h.resultLegal, h.errCodeLegal, h.pendingLegal,
    h.boundShared, h.offlineShared⟩

theorem Moves.cfg {e : Event} {s t : State} (h : Moves e s t) : t.cfg = s.cfg := by
  cases h with
  | reject s0 _ _ hs => rcases hs with rfl | ⟨c, rfl⟩ <;> rfl
  | gammaDone _ _ hw | ditherDone _ _ hw | encodeDone _ _ _ _ _ hw | encodeRejected _ _ _ _ _ hw | waitDone _ _ hw
  | finishDone _ _ _ hw => simpa using hw.cfg
  | bridged _ _ _ hw hf => exact hf.cfg.trans hw.cfg
  | switched | replayed => simp
  | _ => rfl

theorem State.allows_buildGamma_built {s : State} (h : s.gammaLut ≠ none) : s.allows .buildGamma = false := by
  simpa [State.allows, State.gammaValid, Option.isSome_iff_ne_none] using h

theorem State.allows_buildDither_built {s : State} (h : s.ditherLut ≠ none) : s.allows .buildDither = false := by
  simpa [State.allows, State.ditherValid, Option.isSome_iff_ne_none] using h

/-- Besides a restart only BUILDGAMMA and BUILDDITHER change a table, and the lifecycle allows each only while its own is not
built. -/
theorem Moves.tables {e : Event} {s t : State} (h : Moves e s t) (hs : s.Legal) (he : e ≠ .restart) :
    (s.gammaLut ≠ none → t.gammaLut = s.gammaLut) ∧ (s.ditherLut ≠ none → t.ditherLut = s.ditherLut) := by
  cases h with
  | gammaDone _ _ hw =>
    refine ⟨fun hg => ?_, fun _ => by simpa using hw.ditherLut⟩
    exact absurd (hw.allows hs) (by rw [State.allows_buildGamma_built hg]; decide)
  | ditherDone _ _ hw =>
    refine ⟨fun _ => by simpa using hw.gammaLut, fun hd => ?_⟩
    exact absurd (hw.allows hs) (by rw [State.allows_buildDither_built hd]; decide)
  | restarted h => exact absurd h he
  | reject s0 _ _ hs => rcases hs with rfl | ⟨c, rfl⟩ <;> exact ⟨fun _ => rfl, fun _ => rfl⟩
  | encodeDone _ _ _ _ _ hw | encodeRejected _ _ _ _ _ hw | waitDone _ _ hw | finishDone _ _ _ hw =>
    simp [hw.gammaLut, hw.ditherLut]
  | bridged _ _ _ hw hf => exact ⟨fun _ => hf.gammaLut.trans hw.gammaLut, fun _ => hf.ditherLut.trans hw.ditherLut⟩
  | switched | replayed => simp
  | _ => exact ⟨fun _ => rfl, fun _ => rfl⟩

/-- Settles O57: an idle step changes nothing, and an event's changes are those of `Moves`. -/
theorem tablesAndConfigurationImmutable : Obligations.TablesAndConfigurationImmutable := by
  intro s t hs hstep
  obtain ⟨-, ⟨-, rfl⟩ | ⟨e, rest, hsched, hev⟩⟩ := step_next hstep
  · exact ⟨rfl, fun _ => ⟨fun _ => id, fun _ => id⟩⟩
  · have hmoves := stepEvent_moves hev
    refine ⟨hmoves.cfg, fun hne => ?_⟩
    have he : e ≠ .restart := fun h => hne rest (h ▸ hsched)
    obtain ⟨hgamma, hdither⟩ := hmoves.tables (hs.withSched rest) he
    exact ⟨fun g hg => (hgamma (Option.ne_none_iff_exists'.2 ⟨g, hg⟩)).trans hg,
      fun d hd => (hdither (Option.ne_none_iff_exists'.2 ⟨d, hd⟩)).trans hd⟩

/-! ### The memory -/

/-- What event `e` can make of the memory of `s`: each store of the spec, with the event that makes it (20_memory.md R66,
10_state.md R36). -/
inductive MemoryMoves (e : Event) (s : State) (m : Memory) : Prop
  | kept (hm : m = s.mem)
  | sbankStored (b : Sbank) (f : Nat → Byte)
      (he : e.command? = some (.encodeBank b) ∨ (e = .restart ∧ s.mayStore b = true))
      (hm : m = s.mem.fill (s.bases.sbankBase b) schedBytes f)
  | readyStored (b : Sbank) (he : e.command? = some (.finish b))
      (hm : m = s.mem.storeWord (s.bases.cbBase.toNat + cbOffReady) (sbankWord b))
  /-- COP.POLL writes `frameCount` and `startBank` only (44_consumer.md R238). -/
  | polled (he : e = .word 0x11#32)
      (hm : ∀ a, (a < s.bases.cbBase.toNat + 0x08 ∨ s.bases.cbBase.toNat + 0x0C ≤ a) →
        (a < s.bases.cbBase.toNat + 0x10 ∨ s.bases.cbBase.toNat + 0x14 ≤ a) → m.read a = s.mem.read a)

theorem Moves.memory {e : Event} {s t : State} (h : Moves e s t) : MemoryMoves e s t.mem := by
  cases h with
  | reject s0 _ _ hs => exact .kept (by rcases hs with rfl | ⟨c, rfl⟩ <;> rfl)
  | gammaDone _ _ hw | ditherDone _ _ hw | encodeRejected _ _ _ _ _ hw | waitDone _ _ hw => exact .kept hw.mem
  | bridged _ _ _ hw hf => exact .kept (hf.mem.trans hw.mem)
  | encodeDone b s0 gamma dither he hw =>
    exact .sbankStored b _ (.inl he) (congrArg (fun m => Memory.fill m _ _ _) hw.mem)
  | finishDone b s0 he hw => exact .readyStored b he (congrArg (fun m => Memory.storeWord m _ _) hw.mem)
  | switched he =>
    exact .polled he fun a hcount hstart => (Memory.read_fill_out hstart).trans (countTraversal_read s s.bases hcount)
  | replayed he => exact .polled he fun a hcount _ => countTraversal_read s s.bases hcount
  | copied he => exact .polled he fun a _ hstart => Memory.read_fill_out hstart
  | restarted he =>
    rcases s.cutShort_cases with ⟨hcut, -⟩ | ⟨b, hb, hcut⟩
    · exact .kept (s.restart_mem.trans (congrArg State.mem hcut))
    · exact .sbankStored b _ (.inr ⟨he, hb⟩) (s.restart_mem.trans (congrArg State.mem hcut))
  | _ => exact .kept rfl

/-- A ControlBlock field keeps its word, unless it is `readyBank` under a FINISH, or `frameCount` or `startBank` under a
COP.POLL (R36). -/
theorem MemoryMoves.loadCb {e : Event} {s t : State} (h : MemoryMoves e s t.mem)
    (hapart : regionsApart s.bases.cbBase s.bases.fsBase = true) {off : Nat} (hoff : off + 4 ≤ 20)
    (hready : (∀ b, e.command? ≠ some (.finish b)) ∨ off + 4 ≤ 0x0C ∨ 0x10 ≤ off)
    (hpoll : e ≠ .word 0x11#32 ∨ ((off + 4 ≤ 0x08 ∨ 0x0C ≤ off) ∧ off + 4 ≤ 0x10)) :
    t.loadCb s.bases off = s.loadCb s.bases off := by
  show t.mem.loadWord Config.resetByte _ = s.mem.loadWord Config.resetByte _
  cases h with
  | kept hm => rw [hm]
  | sbankStored b f _ hm => rw [hm, Memory.loadCb_fill_sbank hapart b f hoff]
  | readyStored b he hm =>
    have hout : off + 4 ≤ 0x0C ∨ 0x10 ≤ off := hready.resolve_left fun h => h b he
    rw [hm, Memory.loadWord_storeWord_out (by unfold cbOffReady; omega)]
  | polled he hm =>
    obtain ⟨hcount, hstart⟩ := hpoll.resolve_left fun h => h he
    refine Memory.loadWord_congr fun i hi => ?_
    unfold Memory.byteAt
    rw [hm _ (by omega) (by omega)]

/-- Settles O58: a step's stores are those of `MemoryMoves`, and each leaves the fields that are not its own. -/
theorem controlBlockSingleWriters : Obligations.ControlBlockSingleWriters := by
  refine ⟨fun _ _ _ _ => rfl, fun s t _ hapart hstep hbases => ?_⟩
  obtain ⟨-, ⟨-, rfl⟩ | ⟨e, rest, hsched, hev⟩⟩ := step_next hstep
  · exact ⟨fun _ => rfl, fun _ => ⟨rfl, rfl⟩, rfl, rfl⟩
  · have hmem := (stepEvent_moves hev).memory
    have hload := fun {off} => hmem.loadCb (t := t) hapart (off := off)
    unfold State.readyBank State.startBank State.frameCount
    rw [hbases]
    refine ⟨fun hnone => ?ready, fun hnone => ⟨?start, ?count⟩, ?addr, ?size⟩
    case ready => exact hload (by decide) (.inl (hnone e rest hsched)) (.inr (by decide))
    case start => exact hload (by decide) (.inr (by decide)) (.inl fun h => hnone rest (h ▸ hsched))
    case count => exact hload (by decide) (.inr (by decide)) (.inl fun h => hnone rest (h ▸ hsched))
    case addr => exact hload (by decide) (.inr (by decide)) (.inr (by decide))
    case size => exact hload (by decide) (.inr (by decide)) (.inr (by decide))

end Sys2Proof.Machine
end

section
/-!
PROOFS. A configuration a model refuses (10_state.md R24, R25), what ENCODE makes of one (60_exceptions.md R258), and the state
after reset of one it accepts (10_state.md R52): its values, and that it satisfies both invariants.
-/

namespace Sys2Proof.Machine

/-! ### Configurations a model refuses -/

theorem step_badConfiguration {s : State} (h : s.cfg.ok = false) : step s = .refused .badConfiguration := by
  unfold step stepNext
  rw [h]
  rfl

/-- R24: two signals on one (gbank, bit) pair. -/
theorem Config.wiringOk_of_shared_bit {c : Config} (h : ¬ (c.wiring.map (fun w => (w.gbank, w.bit))).Nodup) :
    c.wiringOk = false := by
  unfold Config.wiringOk
  rw [decide_eq_false h, Bool.and_false]

/-- R25: a source outside the buffer. -/
theorem Config.srcOk_of_outside {c : Config} (h : ∃ e ∈ c.src, c.width ≤ e.x ∨ c.height ≤ e.y) : c.srcOk = false := by
  obtain ⟨e, he, hout⟩ := h
  refine List.all_eq_false.2 ⟨e, he, ?_⟩
  rw [Bool.and_eq_true, decide_eq_true_iff, decide_eq_true_iff]
  omega

/-- R258: with the tables built and the descriptor right, ENCODE stops at the test of the two maps. -/
theorem bodyEncode_defect {b : Sbank} {s : State} (hg : s.gammaLut ≠ none) (hd : s.ditherLut ≠ none)
    (hdim : dimensionsMatch s.cfg (s.portOperand .pixW) (s.portOperand .pixH) (s.portOperand .pixLen) = true)
    (hdef : (s.cfg.wiringOk && s.cfg.srcOk) = false) : bodyEncode b s = .fault .defect := by
  obtain ⟨gamma, hg⟩ := Option.ne_none_iff_exists'.1 hg
  obtain ⟨dither, hd⟩ := Option.ne_none_iff_exists'.1 hd
  rw [bodyEncode_some hg hd, if_pos hdim, hdef]
  rfl

/-- The descriptor ENCODE reads passes the boundary check when the registers as they stand do. -/
theorem State.Fresh.dimensionsMatch {s : State} {b : Sbank} {err : Bool} {st : List (PortReg × Word)} {px : Memory}
    (h : s.Fresh (.encodeBank b) st px) (hw : s.port.pixW.toNat = s.cfg.width) (hh : s.port.pixH.toNat = s.cfg.height)
    (hlen : s.port.pixLen.toNat = s.cfg.width * s.cfg.height * 4) :
    let s0 := s.started (.encodeBank b) err st px
    Sys2Proof.Machine.dimensionsMatch s.cfg (s0.portOperand .pixW) (s0.portOperand .pixH) (s0.portOperand .pixLen) = true := by
  intro s0
  have hreg : ∀ r ∈ [PortReg.pixW, .pixH, .pixLen], r ≠ .status → s0.portOperand r = s.portRead r :=
    fun r hr => h.portOperand hr
  rw [hreg .pixW (by decide) (by decide), hreg .pixH (by decide) (by decide), hreg .pixLen (by decide) (by decide)]
  simp [Sys2Proof.Machine.dimensionsMatch, State.portRead, hw, hh, hlen]

theorem State.allows_encode {s : State} (hg : s.gammaLut ≠ none) (hd : s.ditherLut ≠ none) (hb : s.bound ≠ none) (b : Sbank) :
    s.allows (.encodeBank b) = true := by
  simp [State.allows, State.gammaValid, State.ditherValid, State.bridged, Option.isSome_iff_ne_none, hg, hd, hb]

/-- Settles O26: no step is taken in a refused configuration; ENCODE, whether issued now or resumed, reaches its test of the two
maps with the descriptor right. -/
theorem encodeDefectFaults : Obligations.EncodeDefectFaults := by
  refine ⟨fun s => step_badConfiguration, fun s b htakes hg hd hb hw hh hlen hdef => ?_⟩
  have hmaps : (s.cfg.wiringOk && s.cfg.srcOk) = false := by
    rcases hdef with hdef | hdef
    · rw [Config.wiringOk_of_shared_bit hdef, Bool.false_and]
    · rw [Config.srcOk_of_outside hdef, Bool.and_false]
  obtain ⟨err, st, px, hfresh, hrun⟩ := State.command_takes htakes (State.allows_encode hg hd hb b) (bodyEncode b)
  exact hrun.trans (bodyEncode_defect hg hd (hfresh.dimensionsMatch hw hh hlen) hmaps)

/-! ### The ControlBlock at reset -/

section ResetControlBlock

variable (c : Config) (free : Nat → Byte)

/-- The five stores of `resetControlBlock` are to words that do not overlap, so each word holds what its store put there. -/
theorem loadWord_resetControlBlock :
    (resetControlBlock c).loadWord free (c.cbAddr.toNat + cbOffAddr) = c.framebufsAddr
    ∧ (resetControlBlock c).loadWord free (c.cbAddr.toNat + cbOffSize) = c.framebufsSize
    ∧ (resetControlBlock c).loadWord free (c.cbAddr.toNat + cbOffCount) = 0#32
    ∧ (resetControlBlock c).loadWord free (c.cbAddr.toNat + cbOffReady) = sbankWord c.initBank
    ∧ (resetControlBlock c).loadWord free (c.cbAddr.toNat + cbOffStart) = sbankWord c.initBank := by
  unfold resetControlBlock cbOffAddr cbOffSize cbOffCount cbOffReady cbOffStart
  simp (disch := omega) only [Memory.loadWord_storeWord_out, Memory.loadWord_storeWord, and_self]

theorem read_resetControlBlock_outside {a : Nat} (h : a < c.cbAddr.toNat ∨ c.cbAddr.toNat + 20 ≤ a) :
    (resetControlBlock c).read a = none := by
  unfold resetControlBlock cbOffAddr cbOffSize cbOffCount cbOffReady cbOffStart Memory.storeWord
  simp (disch := omega) only [Memory.read_fill_out, Memory.read_nil]

theorem wf_resetControlBlock : (resetControlBlock c).wf := by
  unfold resetControlBlock
  repeat apply Memory.wf_storeWord
  exact Memory.wf_nil

/-- A listed address of the ControlBlock at reset is one of its own. -/
theorem mem_resetControlBlock {x : Host.Cell} (h : x ∈ resetControlBlock c) : x.1 < c.cbAddr.toNat + 20 := by
  have hstore : ∀ (m : Memory) (off : Nat) (v : Word), off + 4 ≤ 20 → (∀ x ∈ m, x.1 < c.cbAddr.toNat + 20) →
      ∀ x ∈ m.storeWord (c.cbAddr.toNat + off) v, x.1 < c.cbAddr.toNat + 20 := by
    intro m off v hoff hm x hx
    rcases Memory.mem_fill hx with hx | hx
    · exact hm x hx
    · omega
  refine hstore _ _ _ (by decide) (hstore _ _ _ (by decide) (hstore _ _ _ (by decide) (hstore _ _ _ (by decide)
    (hstore _ _ _ (by decide) fun x hx => ?_)))) x h
  cases hx

end ResetControlBlock

/-! ### The values of reset -/

/-- The bases at reset are the platform's, whether or not the mode binds them. -/
theorem bases_resetOf (c : Config) : (State.resetOf c).bases = ⟨c.cbAddr, c.fsAddr⟩ := by
  unfold State.bases
  rw [State.resetOf_bound]
  split <;> rfl

/-- A ControlBlock field at reset is a word of `resetControlBlock`. -/
theorem loadCb_resetOf (c : Config) (off : Nat) : (State.resetOf c).loadCb (State.resetOf c).bases off
    = (resetControlBlock c).loadWord Config.resetByte (c.cbAddr.toNat + off) := by
  rw [bases_resetOf]
  rfl

theorem frameCount_resetOf (c : Config) : (State.resetOf c).frameCount = 0#32 := by
  obtain ⟨-, -, hcount, -, -⟩ := loadWord_resetControlBlock c Config.resetByte
  exact (loadCb_resetOf c _).trans hcount

theorem readyBank_resetOf (c : Config) : (State.resetOf c).readyBank = sbankWord c.initBank := by
  obtain ⟨-, -, -, hready, -⟩ := loadWord_resetControlBlock c Config.resetByte
  exact (loadCb_resetOf c _).trans hready

theorem startBank_resetOf (c : Config) : (State.resetOf c).startBank = sbankWord c.initBank := by
  obtain ⟨-, -, -, -, hstart⟩ := loadWord_resetControlBlock c Config.resetByte
  exact (loadCb_resetOf c _).trans hstart

theorem bridged_resetOf (c : Config) : (State.resetOf c).bridged = decide (c.mode = .offline) := by
  unfold State.bridged
  rw [State.resetOf_bound]
  split <;> simp [*]

/-- `STATUS` at reset has BRIDGED as its only bit that may be 1. -/
theorem statusWord_resetOf (c : Config) :
    (State.resetOf c).statusWord = if c.mode = .offline then 0x20#32 else 0x00#32 := by
  show flagBit false 0 ||| flagBit false 1 ||| flagBit false 2 ||| flagBit false 3 ||| flagBit false 4
    ||| flagBit (State.resetOf c).bridged 5 = _
  rw [bridged_resetOf]
  by_cases h : c.mode = .offline
  · rw [if_pos h, decide_eq_true h]; decide
  · rw [if_neg h, decide_eq_false h]; decide

/-- Settles O48: the ControlBlock's words by the stores that put them there, `STATUS` by its fields, the rest as
`State.resetOf` writes it. -/
theorem resetValues : Obligations.ResetValues := by
  intro c s
  obtain ⟨haddr, hsize, -, -, -⟩ := loadWord_resetControlBlock c Config.resetByte
  have hzero : ∀ r ∈ [PortReg.result, .errCode, .errInfo, .pixW, .pixH, .pixLen, .gammaLo, .gammaHi, .hsState],
      s.portRead r = 0#32 := by
    simp only [List.forall_mem_cons, List.not_mem_nil, false_imp_iff, implies_true, and_true]
    exact ⟨rfl, rfl, rfl, rfl, rfl, rfl, rfl, rfl, rfl⟩
  exact ⟨rfl, rfl, rfl, rfl, rfl, rfl, statusWord_resetOf c, hzero, bridged_resetOf c, rfl, rfl, rfl, rfl, rfl,
    readyBank_resetOf c, startBank_resetOf c, rfl, frameCount_resetOf c, rfl, rfl, rfl, rfl,
    (loadCb_resetOf c _).trans haddr, (loadCb_resetOf c _).trans hsize, fun a => read_resetControlBlock_outside c, rfl, rfl⟩

/-! ### The invariants at reset -/

/-- An accepted configuration places the platform's regions as 20_memory.md R69 and R75 ask. -/
theorem Config.regions_of_ok {c : Config} (h : c.ok = true) :
    Bases.ok ⟨c.cbAddr, c.fsAddr⟩ = true ∧ regionsApart c.cbAddr c.fsAddr = true := by
  have hregions : c.regionsOk = true := by
    simp only [Config.ok, Bool.and_eq_true] at h
    exact h.1.2
  simpa only [Config.regionsOk, Bases.ok, Bool.and_eq_true] using hregions

/-- Whatever bases reset binds are the platform's. -/
theorem eq_of_bound_resetOf {c : Config} {bs : Bases} (h : (State.resetOf c).bound = some bs) : bs = ⟨c.cbAddr, c.fsAddr⟩ := by
  rw [← State.bases_of_bound h, bases_resetOf]

/-- Settles O50: the memory is the ControlBlock's five words, the bases are the platform's, and nothing is outstanding. -/
theorem resetIsLegal : Obligations.ResetIsLegal := by
  intro c hc
  obtain ⟨hok, hapart⟩ := Config.regions_of_ok hc
  exact {
    memWf := wf_resetControlBlock c
    pixWf := Memory.wf_nil
    memInSpace := fun x hx => by
      have hcb := mem_resetControlBlock c hx
      have hspace := ((Bases.ok_iff _).1 hok).1.2
      exact Nat.lt_of_lt_of_le hcb hspace
    pixInBuffer := fun x hx => nomatch hx
    boundOk := fun bs hbs => by
      rw [eq_of_bound_resetOf hbs]
      exact ⟨hok, hapart⟩
    resultLegal := Nat.zero_le 1
    errCodeLegal := Nat.zero_le 9
    pendingLegal := fun _ h => nomatch h
    boundShared := fun bs hbs => (eq_of_bound_resetOf hbs).symm
    offlineShared := fun _ => rfl }

/-- Settles O52: both handoff fields name the sbank COP replays, SW holds none, and no store is pending. -/
theorem resetIsHandoffSafe : Obligations.ResetIsHandoffSafe := by
  intro c hc
  obtain ⟨hok, hapart⟩ := Config.regions_of_ok hc
  have hvisible : ∀ b, (State.resetOf c).vis.get b = .visible := fun b => ite_self _
  exact {
    basesOk := bases_resetOf c ▸ hok
    apart := bases_resetOf c ▸ hapart
    curStarted := startBank_resetOf c
    readyLegal := readyBank_resetOf c ▸ sbankWord_toNat_le _
    held := fun _ h => nomatch h
    unpublished := fun b h => by rw [hvisible] at h; cases h
    encoding := fun _ h => nomatch h
    activeVisible := hvisible _ }

end Sys2Proof.Machine
end

section
/-!
PROOFS. Every step keeps a legal state legal (20_memory.md R69, R75): each part of `State.Legal` by cases on what an event can do
(`Moves`).
-/

namespace Sys2Proof.Machine

/-! ### The memories -/

/-- A memory in canonical form with no address from `n` on. -/
def Memory.Fits (m : Memory) (n : Nat) : Prop := m.wf ∧ ∀ c ∈ m, c.1 < n

theorem Memory.fits_nil (n : Nat) : Memory.Fits [] n := ⟨Memory.wf_nil, fun _ hc => nomatch hc⟩

theorem Memory.Fits.fill {m : Memory} {n : Nat} (h : m.Fits n) {base k : Nat} (hk : base + k ≤ n) (f : Nat → Byte) :
    (m.fill base k f).Fits n := by
  refine ⟨Memory.wf_fill h.1 base k f, fun c hc => ?_⟩
  rcases Memory.mem_fill hc with hc | ⟨-, hc⟩
  · exact h.2 c hc
  · exact Nat.lt_of_lt_of_le hc hk

theorem Bases.sbank_inSpace {bs : Bases} (h : bs.ok = true) (b : Sbank) : bs.sbankBase b + schedBytes ≤ 2 ^ 32 := by
  have hfs := ((Bases.ok_iff bs).1 h).2.2
  have hrange := (bs.sbankBase_range b).2
  unfold schedBytes
  omega

theorem Memory.Fits.fill_sbank {m : Memory} {bs : Bases} (h : m.Fits (2 ^ 32)) (hok : bs.ok = true) (b : Sbank)
    (f : Nat → Byte) : (m.fill (bs.sbankBase b) schedBytes f).Fits (2 ^ 32) :=
  h.fill (Bases.sbank_inSpace hok b) f

theorem Memory.Fits.storeCb {m : Memory} {bs : Bases} (h : m.Fits (2 ^ 32)) (hok : bs.ok = true) {off : Nat}
    (hoff : off + 4 ≤ 20) (v : Word) : (m.storeWord (bs.cbBase.toNat + off) v).Fits (2 ^ 32) := by
  have hcb := ((Bases.ok_iff bs).1 hok).1.2
  exact h.fill (by omega) _

theorem Memory.Fits.countTraversal {s : State} {bs : Bases} (h : s.mem.Fits (2 ^ 32)) (hok : bs.ok = true) :
    (s.countTraversal bs).mem.Fits (2 ^ 32) := by
  rw [State.countTraversal_mem]
  split
  · exact h.storeCb hok (by decide) _
  · exact h

/-- In a legal state an ENCODE that may have stored has the bases BRIDGE bound. -/
theorem State.Legal.bases_ok_of_mayStore {s : State} (hs : s.Legal) {b : Sbank} (h : s.mayStore b = true) :
    s.bases.ok = true := by
  have hallows := (hs.pendingLegal _ (State.mayStore_iff.1 h).1).1
  have hbridged : s.bridged = true := by
    simp only [State.allows, Bool.and_eq_true] at hallows
    exact hallows.2
  obtain ⟨bs, hbs⟩ := Option.isSome_iff_exists.1 hbridged
  rw [State.bases_of_bound hbs]
  exact (hs.boundOk bs hbs).1

theorem State.Legal.cutShort_mem_fits {s : State} (hs : s.Legal) : s.cutShort.mem.Fits (2 ^ 32) := by
  have hmem : s.mem.Fits (2 ^ 32) := ⟨hs.memWf, hs.memInSpace⟩
  rcases s.cutShort_cases with ⟨hcut, -⟩ | ⟨b, hb, hcut⟩ <;> rw [hcut]
  · exact hmem
  · exact hmem.fill_sbank (hs.bases_ok_of_mayStore hb) b _

theorem Moves.mem_fits {e : Event} {s t : State} (h : Moves e s t) (hs : s.Legal) : t.mem.Fits (2 ^ 32) := by
  have hmem : s.mem.Fits (2 ^ 32) := ⟨hs.memWf, hs.memInSpace⟩
  cases h with
  | reject s0 _ _ hs0 => rcases hs0 with rfl | ⟨c, rfl⟩ <;> exact hmem
  | gammaDone _ _ hw | ditherDone _ _ hw | encodeRejected _ _ _ _ _ hw | waitDone _ _ hw => exact hw.mem.symm ▸ hmem
  | bridged _ _ _ hw hf => exact (hf.mem.trans hw.mem).symm ▸ hmem
  | encodeDone b _ _ _ _ hw _ _ hok => exact Memory.Fits.fill_sbank (hw.mem.symm ▸ hmem) hok b _
  | finishDone _ _ _ hw hok => exact Memory.Fits.storeCb (hw.mem.symm ▸ hmem) hok (by decide) _
  | switched _ _ _ hok => exact (hmem.countTraversal hok).storeCb hok (by decide) _
  | replayed _ _ _ hok => exact hmem.countTraversal hok
  | copied _ _ hok => exact hmem.storeCb hok (by decide) _
  | restarted => exact hs.cutShort_mem_fits
  | _ => exact hmem

theorem AtWork.pix {s s0 : State} {c : Command} (h : AtWork s c s0) : s0.pix = s.pix := by
  cases h <;> rfl

theorem Moves.pix_fits {e : Event} {s t : State} (h : Moves e s t) (hs : s.Legal) :
    t.pix.Fits (s.cfg.width * s.cfg.height * 4) := by
  have hpix : s.pix.Fits (s.cfg.width * s.cfg.height * 4) := ⟨hs.pixWf, hs.pixInBuffer⟩
  cases h with
  | reject s0 _ _ hs0 => rcases hs0 with rfl | ⟨c, rfl⟩ <;> exact hpix
  | gammaDone _ _ hw | ditherDone _ _ hw | encodeDone _ _ _ _ _ hw | encodeRejected _ _ _ _ _ hw | waitDone _ _ hw
  | finishDone _ _ _ hw => exact hw.pix.symm ▸ hpix
  | bridged _ _ _ hw hf => exact (hf.pix.trans hw.pix).symm ▸ hpix
  | switched | replayed => simpa using hpix
  | pixel a _ ha => exact hpix.fill ha _
  | restarted => exact Memory.fits_nil _
  | _ => exact hpix

/-! ### The reporting registers (30_encoding.md R117) -/

/-- The parts of `State.Legal` about the port. -/
def HostPort.Legal (p : HostPort) : Prop := p.result.toNat ≤ 1 ∧ p.errCode.toNat ≤ 9

theorem HostPort.Legal.reported {p : HostPort} (h : p.Legal) (e : ErrCode) (info : Word) :
    { p with errCode := e.code, errInfo := info }.Legal := ⟨h.1, e.code_toNat_le⟩

/-- The port a command leaves when it completes. -/
theorem HostPort.legal_completed (p : HostPort) {x : Word} (hx : x.toNat ≤ 1) :
    { p with result := x, errCode := 0#32, errInfo := 0#32 }.Legal := ⟨hx, Nat.zero_le 9⟩

theorem BridgeFrame.port_legal {s t : State} (h : BridgeFrame s t) (hs : s.port.Legal) : t.port.Legal := by
  constructor
  · rcases h.result with hr | hr <;> rw [hr]
    · exact hs.1
    · exact Nat.zero_le 1
  · rcases h.errCode with hc | hc
    · rw [hc]; exact hs.2
    · exact hc

theorem AtWork.port {s s0 : State} {c : Command} (h : AtWork s c s0) : s0.port = s.port := by
  cases h <;> rfl

theorem Moves.port_legal {e : Event} {s t : State} (h : Moves e s t) (hs : s.Legal) : t.port.Legal := by
  have hport : s.port.Legal := ⟨hs.resultLegal, hs.errCodeLegal⟩
  cases h with
  | reject s0 _ _ hs0 => rcases hs0 with rfl | ⟨c, rfl⟩ <;> exact hport.reported _ _
  | encodeRejected _ _ _ _ _ hw => exact HostPort.Legal.reported (hw.port.symm ▸ hport) _ _
  | gammaDone | ditherDone | encodeDone | finishDone => exact HostPort.legal_completed _ (Nat.zero_le 1)
  | waitDone => exact HostPort.legal_completed _ (sbankWord_toNat_le _)
  | bridged _ _ _ hw hf => exact hf.port_legal (hw.port.symm ▸ hport)
  | switched | replayed => simpa using hport
  | operand _ p hr hc => exact ⟨hr.symm ▸ hport.1, hc.symm ▸ hport.2⟩
  | restarted => exact ⟨Nat.zero_le 1, Nat.zero_le 9⟩
  | _ => exact hport

/-! ### The bases (20_memory.md R75) -/

theorem AtWork.bound {s s0 : State} {c : Command} (h : AtWork s c s0) : s0.bound = s.bound := by
  cases h <;> rfl

theorem AtWork.copBases {s s0 : State} {c : Command} (h : AtWork s c s0) : s0.copBases = s.copBases := by
  cases h <;> rfl

/-- The bases change in a BRIDGE, which binds regions that are aligned, inside the space and apart, and in a restart. -/
theorem Moves.bases_cases {e : Event} {s t : State} (h : Moves e s t) :
    (t.bound = s.bound ∧ t.copBases = s.copBases)
    ∨ (∃ (s0 : State) (bs : Bases), AtWork s .bridge s0 ∧ t.bound = some bs ∧ t.copBases = bs ∧ bs.ok = true
        ∧ regionsApart bs.cbBase bs.fsBase = true)
    ∨ t = s.restart := by
  cases h with
  | reject s0 _ _ hs0 => rcases hs0 with rfl | ⟨c, rfl⟩ <;> exact .inl ⟨rfl, rfl⟩
  | gammaDone _ _ hw | ditherDone _ _ hw | encodeDone _ _ _ _ _ hw | encodeRejected _ _ _ _ _ hw | waitDone _ _ hw
  | finishDone _ _ _ hw => exact .inl ⟨hw.bound, hw.copBases⟩
  | bridged s0 _ _ hw hf =>
    rcases hf.bound with ⟨hb, hc⟩ | ⟨bs, hbs⟩
    · exact .inl ⟨hb.trans hw.bound, hc.trans hw.copBases⟩
    · exact .inr (.inl ⟨s0, bs, hw, hbs⟩)
  | switched | replayed => exact .inl (by simp)
  | restarted => exact .inr (.inr rfl)
  | _ => exact .inl ⟨rfl, rfl⟩

/-- The parts of `State.Legal` about the bases. -/
structure State.BasesLegal (s : State) : Prop where
  ok : ∀ bs, s.bound = some bs → bs.ok = true ∧ regionsApart bs.cbBase bs.fsBase = true
  shared : ∀ bs, s.bound = some bs → s.copBases = bs
  offline : s.cfg.mode = .offline → s.copBases = ⟨s.cfg.cbAddr, s.cfg.fsAddr⟩

/-- A restart binds the platform's bases offline and none in production (10_state.md R52). -/
theorem State.Legal.restart_basesLegal {s : State} (hs : s.Legal) (hcfg : s.cfg.ok = true) : s.restart.BasesLegal := by
  have hoff : ∀ bs, s.restart.bound = some bs → s.cfg.mode = .offline ∧ bs = ⟨s.cfg.cbAddr, s.cfg.fsAddr⟩ := by
    intro bs hbs
    rw [State.restart_bound] at hbs
    split at hbs
    · exact ⟨‹_›, (Option.some.inj hbs).symm⟩
    · cases hbs
  refine ⟨fun bs hbs => ?_, fun bs hbs => ?_, hs.offlineShared⟩
  · rw [(hoff bs hbs).2]
    exact Config.regions_of_ok hcfg
  · obtain ⟨hmode, rfl⟩ := hoff bs hbs
    exact hs.offlineShared hmode

/-- The lifecycle allows BRIDGE in production only (60_exceptions.md R260). -/
theorem State.production_of_allows_bridge {s : State} (h : s.allows .bridge = true) : s.cfg.mode = .production := by
  simp only [State.allows, Bool.and_eq_true, decide_eq_true_iff] at h
  exact h.2

theorem Moves.basesLegal {e : Event} {s t : State} (h : Moves e s t) (hs : s.Legal) (hcfg : s.cfg.ok = true) :
    t.BasesLegal := by
  rcases h.bases_cases with ⟨hb, hc⟩ | ⟨s0, bs, hw, hb, hc, hbs⟩ | rfl
  · exact ⟨by rw [hb]; exact hs.boundOk, by rw [hb, hc]; exact hs.boundShared,
      by rw [h.cfg, hc]; exact hs.offlineShared⟩
  · have hmode := State.production_of_allows_bridge (hw.allows hs)
    refine ⟨fun bs' hbs' => ?_, fun bs' hbs' => ?_, fun hoff => ?_⟩
    · obtain rfl : bs = bs' := Option.some.inj (hb.symm.trans hbs')
      exact hbs
    · exact hc.trans (Option.some.inj (hb.symm.trans hbs'))
    · rw [h.cfg, hmode] at hoff
      cases hoff
  · exact hs.restart_basesLegal hcfg

/-! ### The command outstanding (60_exceptions.md R260, R266) -/

/-- A command outstanding is one the lifecycle allows, and none is outstanding under `FATAL`. -/
def State.PendingLegal (s : State) : Prop := ∀ c, s.outstanding = some c → s.allows c = true ∧ s.fatal = false

theorem State.pendingLegal_none {s : State} (h : s.outstanding = none) : s.PendingLegal := by
  intro c hc
  rw [h] at hc
  cases hc

/-- What the lifecycle allows is a matter of the tables, the bases and the mode. -/
theorem State.allows_congr {s t : State} (hcfg : t.cfg = s.cfg) (hg : t.gammaLut = s.gammaLut)
    (hd : t.ditherLut = s.ditherLut) (hb : t.bound = s.bound) (c : Command) : t.allows c = s.allows c := by
  simp only [State.allows, State.gammaValid, State.ditherValid, State.bridged, hcfg, hg, hd, hb]

theorem State.PendingLegal.congr {s t : State} (h : s.PendingLegal) (ho : t.outstanding = s.outstanding)
    (hf : t.fatal = s.fatal) (hcfg : t.cfg = s.cfg) (hg : t.gammaLut = s.gammaLut) (hd : t.ditherLut = s.ditherLut)
    (hb : t.bound = s.bound) : t.PendingLegal := by
  intro c hc
  rw [State.allows_congr hcfg hg hd hb, hf]
  exact h c (ho ▸ hc)

theorem State.issued_pendingLegal {s : State} {c : Command} (hf : s.fatal = false) (ha : s.allows c = true) :
    (s.issued c).PendingLegal := by
  intro c' hc
  obtain rfl : c = c' := Option.some.inj hc
  exact ⟨(State.allows_congr rfl rfl rfl rfl c).trans ha, hf⟩

theorem AtWork.pendingLegal {s s0 : State} {c : Command} (h : AtWork s c s0) (hs : s.Legal) : s0.PendingLegal := by
  cases h with
  | resumed ho => exact hs.pendingLegal
  | issued ho hf ha => exact State.issued_pendingLegal hf ha

theorem BridgeFrame.pendingLegal {s t : State} (h : BridgeFrame s t) (hs : s.PendingLegal) : t.PendingLegal := by
  rcases h.outstanding with ho | ⟨ho, hb, hf⟩
  · exact State.pendingLegal_none ho
  · exact hs.congr ho hf h.cfg h.gammaLut h.ditherLut hb

theorem Moves.pendingLegal {e : Event} {s t : State} (h : Moves e s t) (hs : s.Legal) : t.PendingLegal := by
  have hpending : s.PendingLegal := hs.pendingLegal
  cases h with
  | issue c _ _ hf ha => exact State.issued_pendingLegal hf ha
  | bridged _ _ _ hw hf => exact hf.pendingLegal (hw.pendingLegal hs)
  | reject | gammaDone | ditherDone | encodeDone | encodeRejected | waitDone | finishDone | restarted =>
    exact State.pendingLegal_none rfl
  | switched | replayed => apply hpending.congr <;> simp
  | _ => exact hpending.congr rfl rfl rfl rfl rfl rfl

/-- Settles O51: an idle step changes nothing, and each part of `State.Legal` is kept by whatever an event can do. -/
theorem stepKeepsLegal : Obligations.StepKeepsLegal := by
  intro s t hs hstep
  obtain ⟨hcfg, ⟨-, rfl⟩ | ⟨e, rest, -, hev⟩⟩ := step_next hstep
  · exact hs
  · have hmoves := stepEvent_moves hev
    have hs' := hs.withSched rest
    have hpix := hmoves.pix_fits hs'
    rw [← hmoves.cfg] at hpix
    obtain ⟨hmemWf, hmemInSpace⟩ := hmoves.mem_fits hs'
    obtain ⟨hresult, herrCode⟩ := hmoves.port_legal hs'
    obtain ⟨hok, hshared, hoffline⟩ := hmoves.basesLegal hs' hcfg
    exact {
      memWf := hmemWf
      pixWf := hpix.1
      memInSpace := hmemInSpace
      pixInBuffer := hpix.2
      boundOk := hok
      resultLegal := hresult
      errCodeLegal := herrCode
      pendingLegal := hmoves.pendingLegal hs'
      boundShared := hshared
      offlineShared := hoffline }

end Sys2Proof.Machine
end

section
/-!
PROOFS. Who writes an sbank of the Frameset (20_memory.md R66), when an ENCODE may be storing one (41_encoder.md R151, R166), and
what a fetch that races with such stores returns (20_memory.md R85).
-/

namespace Sys2Proof.Machine

/-! ### The stores to an sbank -/

/-- Byte `a` of the space is one of sbank `b`. -/
def Bases.InSbank (bs : Bases) (b : Sbank) (a : Nat) : Prop := bs.sbankBase b ≤ a ∧ a < bs.sbankBase b + schedBytes

/-- The two sbanks do not overlap. -/
theorem Bases.InSbank.other {bs : Bases} {b b' : Sbank} {a : Nat} (h : bs.InSbank b a) (hne : b' ≠ b) :
    a < bs.sbankBase b' ∨ bs.sbankBase b' + schedBytes ≤ a := by
  have hn : b'.toNat ≠ b.toNat := fun h => hne (BitVec.eq_of_toNat_eq h)
  have hb := sbank_toNat_le b
  have hb' := sbank_toNat_le b'
  unfold Bases.InSbank Bases.sbankBase schedBytes at *
  omega

theorem Bases.InSbank.inFrameset {bs : Bases} {b : Sbank} {a : Nat} (h : bs.InSbank b a) :
    bs.fsBase.toNat ≤ a ∧ a < bs.fsBase.toNat + 2097152 := by
  have hrange := bs.sbankBase_range b
  unfold Bases.InSbank schedBytes at h
  omega

/-- A byte of sbank `b` is changed by a step of ENCODE `b`, or by a restart that cuts one short, and by nothing else. -/
theorem MemoryMoves.read_sbank {e : Event} {s : State} {m : Memory} (h : MemoryMoves e s m)
    (hapart : regionsApart s.bases.cbBase s.bases.fsBase = true) {b : Sbank} (he : e.command? ≠ some (.encodeBank b))
    (hcut : s.mayStore b = true → e ≠ .restart) {a : Nat} (ha : s.bases.InSbank b a) : m.read a = s.mem.read a := by
  have hfs := ha.inFrameset
  cases h with
  | kept hm => rw [hm]
  | sbankStored b' f he' hm =>
    have hne : b' ≠ b := by
      rintro rfl
      rcases he' with he' | ⟨he', hmay⟩
      · exact he he'
      · exact hcut hmay he'
    rw [hm, Memory.read_fill_out (ha.other hne)]
  | readyStored b' _ hm => rw [hm, Memory.read_storeCb hapart (by decide) _ hfs.1 hfs.2]
  | polled _ hm =>
    have hcb := (regionsApart_iff _ _).1 hapart
    exact hm a (by omega) (by omega)

/-- Settles O59: an idle step stores nothing, and an event's stores are those of `MemoryMoves`. -/
theorem onlyEncodeWritesFrameset : Obligations.OnlyEncodeWritesFrameset := by
  intro s t b _ hapart hstep hcommand hcut a hlow hhigh
  obtain ⟨-, ⟨-, rfl⟩ | ⟨e, rest, hsched, hev⟩⟩ := step_next hstep
  · rfl
  · exact (stepEvent_moves hev).memory.read_sbank hapart (hcommand e rest hsched)
      (fun hmay he => hcut hmay rest (he ▸ hsched)) ⟨hlow, hhigh⟩

/-! ### Races -/

theorem State.mem_operandValues {s : State} {r : PortReg} {v : Word} :
    v ∈ s.operandValues r ↔ v = s.portRead r ∨ (r, v) ∈ s.stale := by
  unfold State.operandValues
  rw [List.mem_cons, mem_staleOf]

/-- The descriptor may pass when each of its registers has had the right value (41_encoder.md R152). -/
theorem State.descriptorMayMatch_iff (s : State) : s.descriptorMayMatch = true ↔
    (∃ w ∈ s.operandValues .pixW, w.toNat = s.cfg.width)
    ∧ (∃ h ∈ s.operandValues .pixH, h.toNat = s.cfg.height)
    ∧ ∃ len ∈ s.operandValues .pixLen, len.toNat = s.cfg.width * s.cfg.height * 4 := by
  simp only [State.descriptorMayMatch, dimensionsMatch, List.any_eq_true, Bool.and_eq_true, decide_eq_true_iff]
  constructor
  · rintro ⟨w, hw, h, hh, len, hlen, ⟨hw', hh'⟩, hlen'⟩
    exact ⟨⟨w, hw, hw'⟩, ⟨h, hh, hh'⟩, len, hlen, hlen'⟩
  · rintro ⟨⟨w, hw, hw'⟩, ⟨h, hh, hh'⟩, len, hlen, hlen'⟩
    exact ⟨w, hw, h, hh, len, hlen, ⟨hw', hh'⟩, hlen'⟩

theorem State.races_iff (s : State) (b : Sbank) : s.races b = true ↔ s.vis.get b ≠ .visible ∨ s.mayStore b = true := by
  unfold State.races
  rw [Bool.or_eq_true, decide_eq_true_iff]

/-- COP.FETCH away from a boundary (44_consumer.md R231). -/
theorem exec_copFetch_enabled {s : State} (hc : s.cfg.cop = .contract) (hb : s.cop.atBoundary = false)
    (hok : s.bases.ok = true) :
    exec .copFetch s = .next { s with
      cop := { s.cop.advance s.cfg.copPoll with pins := s.fetchWords s.bases }
      draws := if s.races s.cop.cur then s.draws + 1 else s.draws } := by
  show execCopFetch s = _
  unfold execCopFetch
  rw [if_pos ⟨hc, hb⟩, State.onShared_ok hok]

theorem State.fetchWords_race {s : State} (h : s.races s.cop.cur = true) (bs : Bases) : s.fetchWords bs =
    ⟨Config.raceWord s.draws 0, Config.raceWord s.draws 1, Config.raceWord s.draws 2, Config.raceWord s.draws 3⟩ :=
  if_pos h

/-- Settles O39: the descriptor register by register, and the enabled fetch where `races` holds. -/
theorem racingFetchDraws : Obligations.RacingFetchDraws := by
  constructor
  · intro s b
    rw [State.mayStore_iff, State.descriptorMayMatch_iff]
    simp only [State.mem_operandValues]
    rfl
  · intro s hc hb hok hrace
    have hraces := (s.races_iff s.cop.cur).2 hrace
    rw [exec_copFetch_enabled hc hb hok, State.fetchWords_race hraces, if_pos hraces]

end Sys2Proof.Machine
end

section
/-!
PROOFS. The handoff forward (20_memory.md R83, 43_synchronizer.md R212): what ENCODE, FINISH and a COP.POLL that switches leave
when each completes, what that makes of the words of the sbank, and the three in a row.
-/

namespace Sys2Proof.Machine

/-! ### ENCODE -/

/-- What ENCODE completes in (41_encoder.md R151, R152): the tables built, the bases bound, a descriptor and a configuration that
pass. -/
structure State.EncodeReady (s : State) (bs : Bases) (e : EncodeInput) : Prop where
  gamma : s.gammaLut = some e.gamma
  dither : s.ditherLut = some e.dither
  cfg : e.cfg = s.cfg
  bound : s.bound = some bs
  basesOk : bs.ok = true
  width : s.port.pixW.toNat = s.cfg.width
  height : s.port.pixH.toNat = s.cfg.height
  length : s.port.pixLen.toNat = s.cfg.width * s.cfg.height * 4
  maps : (s.cfg.wiringOk && s.cfg.srcOk) = true

/-- The state a completed ENCODE `b` leaves that reads its pixels as `px`. -/
def State.encoded (s : State) (bs : Bases) (b : Sbank) (e : EncodeInput) (px : Nat → Nat → Byte) : State :=
  { s.withCompletion 0#32 with
    mem := s.mem.fill (bs.sbankBase b) schedBytes (e.byte px)
    vis := s.vis.set b .pending
    own := s.own.afterEncode b }

theorem bodyEncode_completes {b : Sbank} {s : State} {bs : Bases} {e : EncodeInput} (h : s.EncodeReady bs e)
    (hdim : dimensionsMatch s.cfg (s.portOperand .pixW) (s.portOperand .pixH) (s.portOperand .pixLen) = true) :
    bodyEncode b s = .next { (s.storeSchedule bs b e).complete 0#32 with own := s.own.afterEncode b } := by
  have hbases := State.bases_of_bound h.bound
  rw [bodyEncode_some h.gamma h.dither, if_pos hdim, if_pos h.maps, State.onShared_ok (hbases ▸ h.basesOk), hbases, ← h.cfg]

/-- ENCODE's completion: each pixel is read as it stands or, changed under the command, as one of the values it has had
(R168). -/
theorem exec_encode_completes {s : State} {b : Sbank} {bs : Bases} {e : EncodeInput} (ht : s.takes (.encodeBank b))
    (h : s.EncodeReady bs e) :
    ∃ px : Nat → Nat → Byte,
      (∀ key a, px key a = s.pixByte a ∨ (s.outstanding = some (.encodeBank b) ∧ (a, px key a) ∈ s.pixStale))
      ∧ exec (.encodeBank b) s = .next (s.encoded bs b e px) := by
  have hallows : s.allows (.encodeBank b) = true :=
    State.allows_encode (by simp [h.gamma]) (by simp [h.dither]) (by simp [h.bound]) b
  obtain ⟨err, st, px, hfresh, hrun⟩ := State.command_takes ht hallows (bodyEncode b)
  have hbody := bodyEncode_completes (b := b) (s := s.started (.encodeBank b) err st px)
    ⟨h.gamma, h.dither, h.cfg, h.bound, h.basesOk, h.width, h.height, h.length, h.maps⟩
    (hfresh.dimensionsMatch h.width h.height h.length)
  refine ⟨_, hfresh.pixOperand (err := err), hrun.trans (hbody.trans (congrArg Host.Outcome.next ?_))⟩
  unfold State.encoded
  rw [← hfresh.complete (err := err)]
  rfl

/-- An ENCODE issued now reads every pixel as it stands. -/
theorem exec_encode_issued {s : State} {b : Sbank} {bs : Bases} {e : EncodeInput} (ha : s.accepts) (h : s.EncodeReady bs e) :
    exec (.encodeBank b) s = .next (s.encoded bs b e (fun _ a => s.pixByte a)) := by
  obtain ⟨px, hpx, hexec⟩ := exec_encode_completes (b := b) (.inl ha) h
  have hnone : s.outstanding ≠ some (.encodeBank b) := by simp [ha.1]
  obtain rfl : px = fun _ a => s.pixByte a := by
    funext key a
    exact (hpx key a).resolve_right fun hst => hnone hst.1
  exact hexec

/-! ### The words of an sbank -/

theorem siteOffset_lt (f : SubFrame) (r : RowSel) (p : ScanPos) (g : Gbank) : siteOffset f r p g + 4 ≤ schedBytes := by
  have hf := f.isLt
  have hr := r.isLt
  have hp := p.isLt
  have hg := g.isLt
  unfold siteOffset schedBytes
  omega

theorem Bases.frameAddr_eq (bs : Bases) (b : Sbank) (f : SubFrame) (r : RowSel) (p : ScanPos) (g : Gbank) :
    bs.frameAddr b f r p g = bs.sbankBase b + siteOffset f r p g :=
  (Nat.add_assoc ..).symm

theorem Bases.inSbank_frameAddr (bs : Bases) (b : Sbank) (f : SubFrame) (r : RowSel) (p : ScanPos) (g : Gbank) {i : Nat}
    (hi : i < 4) : bs.InSbank b (bs.frameAddr b f r p g + i) := by
  have hsite := siteOffset_lt f r p g
  rw [bs.frameAddr_eq]
  unfold Bases.InSbank
  omega

theorem ofNat_eq_of_mod {w n : Nat} {x : BitVec w} (h : n % 2 ^ w = x.toNat) : BitVec.ofNat w n = x :=
  BitVec.eq_of_toNat_eq ((BitVec.toNat_ofNat n w).trans h)

/-- The bytes of the closed form's word, at the offsets of its site (30_encoding.md R105). -/
theorem EncodeInput.byte_siteOffset (e : EncodeInput) (px : Nat → Nat → Byte) (f : SubFrame) (r : RowSel) (p : ScanPos)
    (g : Gbank) {i : Nat} (hi : i < 4) : e.byte px (siteOffset f r p g + i) = byteOf (e.word px f r p g) i := by
  have hf := f.isLt
  have hr := r.isLt
  have hp := p.isLt
  have hg := g.isLt
  have hf' : BitVec.ofNat 6 ((siteOffset f r p g + i) / 16384) = f := ofNat_eq_of_mod (by unfold siteOffset; omega)
  have hr' : BitVec.ofNat 4 ((siteOffset f r p g + i) / 1024) = r := ofNat_eq_of_mod (by unfold siteOffset; omega)
  have hp' : BitVec.ofNat 6 ((siteOffset f r p g + i) / 16) = p := ofNat_eq_of_mod (by unfold siteOffset; omega)
  have hg' : BitVec.ofNat 2 ((siteOffset f r p g + i) / 4) = g := ofNat_eq_of_mod (by unfold siteOffset; omega)
  have hi' : (siteOffset f r p g + i) % 4 = i := by unfold siteOffset; omega
  unfold EncodeInput.byte
  rw [hf', hr', hp', hg', hi']

/-- After ENCODE `b` every word of sbank `b` is its closed form (41_encoder.md R156). -/
theorem State.frameLoad_encoded (s : State) (bs : Bases) (b : Sbank) (e : EncodeInput) (px : Nat → Nat → Byte) (f : SubFrame)
    (r : RowSel) (p : ScanPos) (g : Gbank) : (s.encoded bs b e px).frameLoad bs b f r p g = e.word px f r p g := by
  show Memory.loadWord (s.mem.fill (bs.sbankBase b) schedBytes (e.byte px)) Config.resetByte (bs.frameAddr b f r p g) = _
  have h0 := e.byte_siteOffset px f r p g (i := 0) (by decide)
  rw [Nat.add_zero] at h0
  rw [bs.frameAddr_eq, Memory.loadWord_fill_in (siteOffset_lt f r p g), h0, e.byte_siteOffset px f r p g (by decide),
    e.byte_siteOffset px f r p g (by decide), e.byte_siteOffset px f r p g (by decide), Memory.wordOfBytes_byteOf]

theorem command?_encode (i : Instr) : (Event.word (encode i)).command? = i.command? := by
  cases i with
  | encodeBank b | finish b => revert b; decide
  | _ => decide

/-- An instruction other than ENCODE `b` leaves every word of sbank `b` (20_memory.md R66). -/
theorem exec_frameLoad {s t : State} {i : Instr} (h : exec i s = .next t)
    (hapart : regionsApart s.bases.cbBase s.bases.fsBase = true) {b : Sbank} (hi : i.command? ≠ some (.encodeBank b))
    (f : SubFrame) (r : RowSel) (p : ScanPos) (g : Gbank) :
    t.frameLoad s.bases b f r p g = s.frameLoad s.bases b f r p g := by
  have hmoves : Moves (.word (encode i)) s t := exec_moves (command?_encode i) (fun hi => by rw [hi]; rfl)
    (fun hi => by rw [hi]; rfl) (fun hi => by rw [hi]; rfl) h
  refine Memory.loadWord_congr fun k hk => congrArg (Option.getD · _) ?_
  exact hmoves.memory.read_sbank hapart (command?_encode i ▸ hi) (fun _ he => nomatch he)
    (s.bases.inSbank_frameAddr b f r p g hk)

/-! ### FINISH -/

/-- The state a completed FINISH `b` leaves (43_synchronizer.md R210). -/
def State.finished (s : State) (bs : Bases) (b : Sbank) : State :=
  { s.withCompletion 0#32 with
    mem := s.mem.storeWord (bs.cbBase.toNat + cbOffReady) (sbankWord b)
    vis := s.vis.map Visibility.release
    own := .none }

theorem bodyFinish_completes {b : Sbank} {s : State} {bs : Bases} (hb : s.bound = some bs) (hok : bs.ok = true) :
    bodyFinish b s = .next { (s.releaseStores.storeCb bs cbOffReady (sbankWord b)).complete 0#32 with own := .none } := by
  have hbases := State.bases_of_bound hb
  unfold bodyFinish
  rw [State.onShared_ok (hbases ▸ hok), hbases]

theorem exec_finish_completes {s : State} {b : Sbank} {bs : Bases} (ht : s.takes (.finish b)) (hb : s.bound = some bs)
    (hok : bs.ok = true) : exec (.finish b) s = .next (s.finished bs b) := by
  have hallows : s.allows (.finish b) = true := by simp [State.allows, State.bridged, hb]
  obtain ⟨err, st, px, hfresh, hrun⟩ := State.command_takes ht hallows (bodyFinish b)
  have hbody := bodyFinish_completes (b := b) (s := s.started (.finish b) err st px) hb hok
  refine hrun.trans (hbody.trans (congrArg Host.Outcome.next ?_))
  unfold State.finished
  rw [← hfresh.complete (err := err)]
  rfl

/-! ### COP.POLL -/

/-- The state a COP.POLL leaves that adopts sbank `b` (44_consumer.md R235). -/
def State.adopted (s : State) (b : Sbank) : State :=
  ((s.countTraversal s.bases).acquireStores).switchTo s.bases (sbankWord b)

theorem exec_copPoll_switches {s : State} {b : Sbank} (hc : s.cfg.cop = .contract) (hb : s.cop.atBoundary = true)
    (hok : s.bases.ok = true) (hr : s.readyBank = sbankWord b) (hne : b ≠ s.cop.cur) :
    exec .copPoll s = .next (s.adopted b) := by
  have hload : (s.countTraversal s.bases).loadCb s.bases cbOffReady = sbankWord b :=
    (countTraversal_loadCb s s.bases (by decide)).trans hr
  have hle := sbankWord_toNat_le b
  show execCopPoll s = _
  unfold execCopPoll
  rw [hc]
  show pollContract s = _
  unfold pollContract
  rw [if_pos hb, State.onShared_ok hok]
  dsimp only
  rw [hload, State.countTraversal_cop, if_neg (by omega), if_pos (mt sbankWord_inj.1 hne)]
  rfl

/-- Where COP stands after adopting an sbank: frame 0 (44_consumer.md R235). -/
theorem State.adopted_cop (s : State) (b : Sbank) :
    (s.adopted b).cop = { s.cop with cur := b, f := 0#6, r := 0#4, p := 0#6, atBoundary := false } := by
  simp [State.adopted]

theorem State.adopted_bases (s : State) (b : Sbank) : (s.adopted b).bases = s.bases :=
  State.bases_congr (by simp [State.adopted]) (by simp [State.adopted])

theorem State.adopted_startBank (s : State) (b : Sbank) : (s.adopted b).startBank = sbankWord b := by
  unfold State.startBank
  rw [s.adopted_bases]
  exact Memory.loadWord_storeWord ..

theorem State.adopted_readyBank (s : State) (b : Sbank) : (s.adopted b).readyBank = s.readyBank := by
  unfold State.readyBank
  rw [s.adopted_bases]
  exact (Memory.loadWord_storeWord_out (by unfold cbOffReady cbOffStart; omega)).trans
    (countTraversal_loadCb s s.bases (by decide))

theorem State.finished_readyBank {s : State} {bs : Bases} (hb : s.bound = some bs) (b : Sbank) :
    (s.finished bs b).readyBank = sbankWord b := by
  have hbases : (s.finished bs b).bases = bs := State.bases_of_bound hb
  unfold State.readyBank
  rw [hbases]
  exact Memory.loadWord_storeWord ..

/-- Stores to `b` that a release is ordered after are visible once COP's poll has acquired them: no fetch of `b` is a race. -/
theorem State.races_adopted {s : State} {b : Sbank} (ho : s.outstanding = none) (hv : s.vis.get b ≠ .pending) :
    (s.adopted b).races b = false := by
  have hout : (s.adopted b).outstanding = none := by simp [State.adopted, ho]
  have hvis : (s.adopted b).vis = s.vis.map Visibility.acquire := by simp [State.adopted]
  have hvisible : (s.adopted b).vis.get b = .visible := by
    rw [hvis, PerSbank.get_map, Visibility.acquire_eq_visible]
    exact hv
  unfold State.races
  rw [hvisible, State.mayStore_of_not_encode (by simp [hout])]
  rfl

theorem State.mayStore_of_not_races {s : State} {b : Sbank} (h : s.races b = false) : s.mayStore b = false :=
  (Bool.or_eq_false_iff.1 h).2

/-- An sbank no ENCODE may be storing is inspected as the memory has it. -/
theorem State.fsWord_eq_frameLoad {s : State} {b : Sbank} (h : s.mayStore b = false) (bs : Bases) (f : SubFrame) (r : RowSel)
    (p : ScanPos) (g : Gbank) : s.fsWord bs b f r p g = s.frameLoad bs b f r p g := by
  unfold State.fsWord
  rw [h]
  rfl

/-- Under the invariant SW holds only an sbank COP is not replaying (10_state.md R53). -/
theorem State.HandoffSafe.ne_cur_of_holds {s : State} (h : s.HandoffSafe) {b : Sbank} (hown : s.own.holds b) :
    b ≠ s.cop.cur := by
  have hcur : otherSbank b = s.cop.cur := sbankWord_inj.1 ((h.held b hown).2.symm.trans h.curStarted)
  exact hcur ▸ (otherSbank_ne b).symm

/-! ### ENCODE, FINISH, COP.POLL one after another -/

theorem execAll_cons {i : Instr} {s t : State} (h : exec i s = .next t) (is : List Instr) :
    execAll (i :: is) s = execAll is t := by
  rw [execAll, h]

/-- The state an ENCODE `b` issued in `s` and a FINISH `b` after it leave. -/
def State.published (s : State) (bs : Bases) (b : Sbank) (e : EncodeInput) : State :=
  (s.encoded bs b e (fun _ a => s.pixByte a)).finished bs b

section Published

variable {s : State} {bs : Bases} {b : Sbank} {e : EncodeInput}

theorem State.published_bases (hb : s.bound = some bs) : (s.published bs b e).bases = bs := State.bases_of_bound hb

theorem State.published_readyBank (hb : s.bound = some bs) : (s.published bs b e).readyBank = sbankWord b :=
  State.finished_readyBank (s := s.encoded bs b e _) hb b

theorem exec_finish_encoded (ha : s.accepts) (h : s.EncodeReady bs e) (px : Nat → Nat → Byte) :
    exec (.finish b) (s.encoded bs b e px) = .next ((s.encoded bs b e px).finished bs b) :=
  exec_finish_completes (.inl ⟨rfl, ha.2⟩) h.bound h.basesOk

/-- COP, at a boundary, adopts what SW has published (20_memory.md R83). -/
theorem exec_copPoll_published (h : s.EncodeReady bs e) (hcop : s.cfg.cop = .contract) (hboundary : s.cop.atBoundary = true)
    (hne : b ≠ s.cop.cur) : exec .copPoll (s.published bs b e) = .next ((s.published bs b e).adopted b) :=
  exec_copPoll_switches hcop hboundary (by rw [State.published_bases h.bound]; exact h.basesOk)
    (State.published_readyBank h.bound) hne

theorem execAll_forward (ha : s.accepts) (h : s.EncodeReady bs e) (hcop : s.cfg.cop = .contract)
    (hboundary : s.cop.atBoundary = true) (hne : b ≠ s.cop.cur) :
    execAll [.encodeBank b, .finish b, .copPoll] s = .next ((s.published bs b e).adopted b) :=
  (execAll_cons (exec_encode_issued ha h) _).trans ((execAll_cons (exec_finish_encoded ha h _) _).trans
    (execAll_cons (exec_copPoll_published h hcop hboundary hne) []))

/-- FINISH has ordered a release after ENCODE's stores. -/
theorem State.races_adopted_published : ((s.published bs b e).adopted b).races b = false :=
  State.races_adopted rfl (by simp [State.published, State.finished])

/-- Neither FINISH nor the poll stores into the sbank ENCODE has written. -/
theorem State.frameLoad_adopted_published (ha : s.accepts) (h : s.EncodeReady bs e) (hcop : s.cfg.cop = .contract)
    (hboundary : s.cop.atBoundary = true) (hne : b ≠ s.cop.cur) (hapart : regionsApart bs.cbBase bs.fsBase = true)
    (f : SubFrame) (r : RowSel) (p : ScanPos) (g : Gbank) :
    ((s.published bs b e).adopted b).frameLoad bs b f r p g = e.word (fun _ a => s.pixByte a) f r p g := by
  have hb1 : (s.encoded bs b e (fun _ a => s.pixByte a)).bases = bs := State.bases_of_bound h.bound
  have hb2 : (s.published bs b e).bases = bs := State.published_bases h.bound
  have hpoll := exec_frameLoad (exec_copPoll_published h hcop hboundary hne) (hb2.symm ▸ hapart) (b := b) nofun f r p g
  have hfinish := exec_frameLoad (exec_finish_encoded ha h _) (hb1.symm ▸ hapart) (b := b) nofun f r p g
  rw [hb2] at hpoll
  rw [hb1] at hfinish
  exact hpoll.trans (hfinish.trans (s.frameLoad_encoded bs b e _ f r p g))

end Published

/-- Settles O56: each of the three completes; ENCODE puts the closed form into sbank `b`, the poll adopts it with its stores
visible. -/
theorem forwardGuarantee : Obligations.ForwardGuarantee := by
  intro s b bs gamma dither hsafe haccepts hown hg hd hb hw hh hlen hwiring hsrc hcop hboundary
  have hbases : s.bases = bs := State.bases_of_bound hb
  have hready : s.EncodeReady bs ⟨s.cfg, gamma, dither⟩ :=
    ⟨hg, hd, rfl, hb, hbases ▸ hsafe.basesOk, hw, hh, hlen, by rw [hwiring, hsrc]; rfl⟩
  have hne : b ≠ s.cop.cur := hsafe.ne_cur_of_holds hown
  let t := s.published bs b ⟨s.cfg, gamma, dither⟩
  have hraces : (t.adopted b).races b = false := State.races_adopted_published
  refine ⟨t.adopted b, execAll_forward haccepts hready hcop hboundary hne, ?_⟩
  rw [t.adopted_cop, t.adopted_bases, State.published_bases hb]
  refine ⟨rfl, rfl, rfl, rfl, rfl, t.adopted_startBank b, (t.adopted_readyBank b).trans (State.published_readyBank hb), hraces,
    fun f r p g => ?_⟩
  rw [State.fsWord_eq_frameLoad (State.mayStore_of_not_races hraces)]
  exact State.frameLoad_adopted_published haccepts hready hcop hboundary hne (hbases ▸ hsafe.apart) f r p g

end Sys2Proof.Machine
end

section
/-!
PROOFS. The command word (30_encoding.md R109 to R116): decoder and encoder are inverse, match and mask, the words `CMD` takes,
the step of a trace word, and the fields of `STATUS`.
-/

namespace Sys2Proof

/-! ### Decoder and encoder -/

@[simp] theorem decodeWord_encode (i : Instr) : decodeWord (encode i) = .ok i := by
  cases i with
  | encodeBank b | finish b => revert b; decide
  | _ => rfl

/-- No bit of a word is dropped: its fields make it again. -/
theorem encode_of_decodeWord {w : Word} {i : Instr} (h : decodeWord w = .ok i) : encode i = w := by
  have hfields := fields_toNat w
  unfold decodeWord at h
  split at h
  case isTrue hz =>
    have hword := decodeOp_ok h
    rw [hz] at hfields
    exact BitVec.eq_of_toNat_eq (hword.trans hfields)
  case isFalse => cases h

/-- The legal trace words are exactly the encodings. -/
theorem decodeWord_eq_ok_iff {w : Word} {i : Instr} : decodeWord w = .ok i ↔ w = encode i :=
  ⟨fun h => (encode_of_decodeWord h).symm, fun h => h ▸ decodeWord_encode i⟩

/-- Settles O2: an encoding decodes to its instruction, and a decoded word's fields make it again. -/
theorem decodeInvertsEncode : Obligations.DecodeInvertsEncode :=
  ⟨fun i _ => decodeWord_encode i, fun _ _ => encode_of_decodeWord⟩

/-! ### Match and mask -/

/-- The mask of an `op` with an sbank is every bit but the sbank's (30_encoding.md R111). -/
theorem getLsbD_bankMask {k : Nat} (hk : k < 32) : (0xFFFFFEFF#32).getLsbD k = decide (k ≠ 8) := by
  revert k; decide

/-- The sbank is added at bit 8 (30_encoding.md R109). -/
theorem getLsbD_commandWord (op : Word) (b : Sbank) (k : Nat) :
    (commandWord op b).getLsbD k = (op.getLsbD k || (decide (k = 8) && b.getLsbD 0)) := by
  have hbank : (b.setWidth 32 <<< 8).getLsbD k = (decide (k = 8) && b.getLsbD 0) := by
    rw [BitVec.getLsbD_shiftLeft, BitVec.getLsbD_setWidth]
    rcases Nat.lt_trichotomy k 8 with h | rfl | h
    · simp [h, Nat.ne_of_lt h]
    · simp
    · have : 1 ≤ k - 8 := by omega
      simp [BitVec.getLsbD_of_ge b _ this, Nat.ne_of_gt h]
  rw [commandWord, BitVec.getLsbD_or, hbank]

theorem getLsbD_bankField (w : Word) : (bankField w).getLsbD 0 = w.getLsbD 8 := by
  simp [bankField]

/-- A word is what the mask leaves of it with its sbank put back. -/
theorem commandWord_masked (w : Word) : commandWord (w &&& 0xFFFFFEFF#32) (bankField w) = w := by
  refine BitVec.eq_of_getLsbD_eq fun k hk => ?_
  rw [getLsbD_commandWord, getLsbD_bankField, BitVec.getLsbD_and, getLsbD_bankMask hk]
  by_cases h8 : k = 8 <;> simp [h8]

/-- The mask takes the sbank away. -/
theorem commandWord_and_bankMask {op : Word} (h : op.getLsbD 8 = false) (b : Sbank) :
    commandWord op b &&& 0xFFFFFEFF#32 = op := by
  refine BitVec.eq_of_getLsbD_eq fun k hk => ?_
  rw [BitVec.getLsbD_and, getLsbD_commandWord, getLsbD_bankMask hk]
  by_cases h8 : k = 8
  · rw [h8, h]; simp
  · simp [h8]

theorem bankField_commandWord {op : Word} (h : op.getLsbD 8 = false) (b : Sbank) : bankField (commandWord op b) = b := by
  refine BitVec.eq_of_getLsbD_eq fun k hk => ?_
  obtain rfl : k = 0 := by omega
  rw [getLsbD_bankField, getLsbD_commandWord, h]
  simp

theorem eq_commandWord_iff {op : Word} (h : op.getLsbD 8 = false) {w : Word} {b : Sbank} :
    w = commandWord op b ↔ w &&& 0xFFFFFEFF#32 = op ∧ w.extractLsb' 8 1 = b := by
  constructor
  · rintro rfl
    exact ⟨commandWord_and_bankMask h b, bankField_commandWord h b⟩
  · rintro ⟨rfl, rfl⟩
    exact (commandWord_masked w).symm

/-- A row without an sbank: every bit counts. -/
theorem decodeWord_ok_iff_fullMask {w : Word} {i : Instr} : decodeWord w = .ok i ↔ w &&& 0xFFFFFFFF#32 = encode i := by
  have hmask : w &&& 0xFFFFFFFF#32 = w := BitVec.and_allOnes
  rw [decodeWord_eq_ok_iff, hmask]

/-- Settles O1: each row by what its mask leaves of its encoding. -/
theorem decodeFollowsMatchAndMask : Obligations.DecodeFollowsMatchAndMask := by
  intro w
  have hencode : ∀ b, decodeWord w = .ok (.encodeBank b) ↔ w &&& 0xFFFFFEFF#32 = 0x03#32 ∧ w.extractLsb' 8 1 = b :=
    fun _ => decodeWord_eq_ok_iff.trans (eq_commandWord_iff (by decide))
  have hfinish : ∀ b, decodeWord w = .ok (.finish b) ↔ w &&& 0xFFFFFEFF#32 = 0x06#32 ∧ w.extractLsb' 8 1 = b :=
    fun _ => decodeWord_eq_ok_iff.trans (eq_commandWord_iff (by decide))
  exact ⟨decodeWord_ok_iff_fullMask, decodeWord_ok_iff_fullMask, decodeWord_ok_iff_fullMask, decodeWord_ok_iff_fullMask, hencode,
    hfinish, decodeWord_ok_iff_fullMask, decodeWord_ok_iff_fullMask, decodeWord_ok_iff_fullMask, rfl, rfl, rfl, rfl⟩

/-- Settles O3: the legal words are encodings; the others fail at the field that is wrong. -/
theorem specWordsDecode : Obligations.SpecWordsDecode :=
  ⟨decodeWord_encode .buildGamma, decodeWord_encode (.encodeBank 1), decodeWord_encode .bridge, decodeWord_encode (.finish 0),
    decodeWord_encode .copPoll, decodeWord_encode .monSample, rfl, rfl, rfl⟩

/-! ### The words `CMD` takes -/

/-- The words SW may write to `CMD` (30_encoding.md R110). -/
def commandWords : List Word :=
  [0x001#32, 0x002#32, 0x003#32, 0x103#32, 0x004#32, 0x005#32, 0x006#32, 0x106#32]

theorem Command.word_mem (c : Command) : c.word ∈ commandWords := by
  cases c with
  | encodeBank b | finish b => revert b; decide
  | _ => decide

theorem decodeCmd_of_mem : ∀ w ∈ commandWords, ∃ c, decodeCmd w = .ok c := by
  simp only [commandWords, List.forall_mem_cons, List.not_mem_nil, false_imp_iff, implies_true, and_true]
  exact ⟨⟨_, rfl⟩, ⟨_, rfl⟩, ⟨_, rfl⟩, ⟨_, rfl⟩, ⟨_, rfl⟩, ⟨_, rfl⟩, ⟨_, rfl⟩, ⟨_, rfl⟩⟩

theorem decodeCmd_illegal_iff (w : Word) : (∃ e, decodeCmd w = .error e) ↔ w ∉ commandWords := by
  cases hd : decodeCmd w with
  | ok c => simpa using decodeCmd_word hd ▸ c.word_mem
  | error e =>
    have hnot : w ∉ commandWords := fun hw => by
      obtain ⟨c, hc⟩ := decodeCmd_of_mem w hw
      cases hd.symm.trans hc
    exact ⟨fun _ => hnot, fun _ => ⟨e, rfl⟩⟩

theorem mem_commandWords_iff (w : Word) : w ∈ commandWords ↔
    w.toNat / 512 = 0 ∧ (1 ≤ w.toNat % 256 ∧ w.toNat % 256 ≤ 6)
      ∧ (w.toNat / 256 % 2 = 1 → w.toNat % 256 = 3 ∨ w.toNat % 256 = 6) := by
  simp only [commandWords, List.mem_cons, List.not_mem_nil, or_false, ← BitVec.toNat_inj, BitVec.toNat_ofNat]
  omega

end Sys2Proof

namespace Sys2Proof.Machine

/-- The rejection of an illegal word, with nothing outstanding and no fatal error before it. -/
theorem State.badCommand_accepts {s : State} (h : s.accepts) (w : Word) : s.badCommand w = .next (s.withError 7#32 w) := by
  obtain ⟨ho, hf⟩ := h
  rw [State.badCommand, if_neg (by simp [s.not_busy_iff.2 ho]), if_neg (by simp [hf]), State.raise_badCommand,
    State.report_begun ho rfl]
  rfl

/-- Settles O4: the illegal words are those that are none of the eight of R110, which the bits tell. -/
theorem illegalWordRejected : Obligations.IllegalWordRejected := by
  refine fun w => ⟨?which, fun s hs ⟨e, he⟩ => ?rejected⟩
  case which =>
    rw [decodeCmd_illegal_iff, mem_commandWords_iff]
    omega
  case rejected => rw [stepEvent_cmd_illegal he, State.badCommand_accepts hs]

/-! ### The step of a trace word -/

theorem step_cons {s : State} {e : Event} {rest : List Event} (hok : s.cfg.ok = true) (hs : s.sched = e :: rest) :
    step s = stepEvent e { s with sched := rest } := by
  simp only [step, stepNext, hok, hs, if_true]

theorem stepEvent_word_legal {w : Word} {i : Instr} (h : decodeWord w = .ok i) (s : State) :
    stepEvent (.word w) s = exec i s := by
  simp only [stepEvent, State.traceWord, h]

theorem State.withFetchWord_sched (s : State) (w : Word) :
    (s.withFetchWord 32 w.toNat).sched = .word w :: s.sched := by
  rw [State.withFetchWord, Nat.mod_eq_of_lt w.isLt, BitVec.ofNat_toNat, BitVec.setWidth_eq]

/-- Settles O5: the first event is the word, and what it decodes to runs; `withFetchWord` puts the whole word there. -/
theorem stepRunsDecodedInstruction : Obligations.StepRunsDecodedInstruction := by
  constructor
  · intro s w rest i hok hs hd
    rw [step_cons hok hs, stepEvent_word_legal hd]
  · intro s i hok
    rw [step_cons (s := s.withFetchWord 32 (encode i).toNat) hok (s.withFetchWord_sched _),
      stepEvent_word_legal (decodeWord_encode i)]
    rfl

/-! ### `STATUS` -/

theorem getLsbD_flagBit {n : Nat} (f : Bool) (hn : n < 32) (k : Nat) : (flagBit f n).getLsbD k = (f && decide (k = n)) := by
  cases f with
  | false => simp [flagBit]
  | true =>
    have hbit : (1#32 <<< n).getLsbD k = decide (k = n) := by
      rw [← BitVec.twoPow_eq, BitVec.getLsbD_twoPow, decide_eq_true hn, Bool.true_and]
      exact decide_eq_decide.2 eq_comm
    simpa [flagBit] using hbit

/-- A bit of `STATUS` is the flag whose position it is (30_encoding.md R116). -/
theorem State.getLsbD_statusWord (s : State) (k : Nat) : s.statusWord.getLsbD k =
    ((s.busy && decide (k = 0)) || (s.err && decide (k = 1)) || (s.fatal && decide (k = 2)) || (s.gammaValid && decide (k = 3))
      || (s.ditherValid && decide (k = 4)) || (s.bridged && decide (k = 5))) := by
  simp [State.statusWord, getLsbD_flagBit]

/-- Settles O9: each flag is the only one at its position, and none is at 6 or above. -/
theorem statusFields : Obligations.StatusFields := by
  intro s
  simp only [s.getLsbD_statusWord]
  refine ⟨by simp, by simp, by simp, by simp, by simp, by simp, fun k hk => ?_⟩
  have hne : ∀ n < 6, k ≠ n := fun n hn => by omega
  simp [hne]

end Sys2Proof.Machine
end

section
/-!
PROOFS. The gamma table (40_tables.md R131 to R135): the rounding of the reference value, its order, and the gammas BUILDGAMMA
refuses.
-/

namespace Sys2Proof.Machine

/-! ### The reference value -/

/-- What holds below everything it holds at, holds exactly below its count. -/
theorem lt_count_iff_of_downward {p : Nat → Prop} [DecidablePred p] (hdown : ∀ j k, j ≤ k → p k → p j) {k n : Nat} (hk : k < n) :
    k < Nat.count p n ↔ p k := by
  constructor
  · intro hlt
    by_contra hnot
    have habove : Nat.count (fun j => p (k + j)) (n - k) = 0 :=
      Nat.count_of_forall_not fun j _ hj => hnot (hdown k (k + j) (Nat.le_add_right k j) hj)
    have hsplit := Nat.count_add p k (n - k)
    rw [Nat.add_sub_cancel' hk.le, habove, Nat.add_zero] at hsplit
    exact absurd (hsplit ▸ hlt) (Nat.count_le p).not_gt
  · intro hp
    have hbelow : Nat.count p (k + 1) = k + 1 := Nat.count_of_forall fun j hj => hdown j k (Nat.le_of_lt_succ hj) hp
    exact hbelow.ge.trans (Nat.count_monotone p hk)

/-- `k + 1/2 <= 255 * (v/255)^(a/b)`, in integers: what `roundedPower` counts. -/
abbrev ReachesHalf (a b v k : Nat) : Prop := (2 * k + 1) ^ b * 255 ^ a ≤ v ^ a * 510 ^ b

theorem ReachesHalf.of_le {a b v j k : Nat} (hjk : j ≤ k) (h : ReachesHalf a b v k) : ReachesHalf a b v j :=
  (Nat.mul_le_mul_right _ (Nat.pow_le_pow_left (by omega) b)).trans h

theorem ReachesHalf.mono {a b u v k : Nat} (huv : u ≤ v) (h : ReachesHalf a b u k) : ReachesHalf a b v k :=
  h.trans (Nat.mul_le_mul_right _ (Nat.pow_le_pow_left huv a))

/-- No `v` of a byte reaches `255 + 1/2`, so 255 thresholds are all there are. -/
theorem not_reachesHalf_255 (a : Nat) {b v : Nat} (hb : 0 < b) (hv : v ≤ 255) : ¬ ReachesHalf a b v 255 := by
  refine Nat.not_le.2 ?_
  calc v ^ a * 510 ^ b ≤ 255 ^ a * 510 ^ b := Nat.mul_le_mul_right _ (Nat.pow_le_pow_left hv a)
    _ < 255 ^ a * 511 ^ b := Nat.mul_lt_mul_of_pos_left (Nat.pow_lt_pow_left (by decide) hb.ne') (by positivity)
    _ = 511 ^ b * 255 ^ a := Nat.mul_comm _ _

theorem roundedPower_eq_count (a b v : Nat) : roundedPower a b v = Nat.count (ReachesHalf a b v) 255 :=
  List.countP_eq_length_filter.symm

theorem roundedPower_le (a b v : Nat) : roundedPower a b v ≤ 255 := by
  rw [roundedPower_eq_count]
  exact Nat.count_le _

/-- `R(v)` is above exactly the thresholds that are reached. -/
theorem lt_roundedPower_iff (a b v : Nat) {k : Nat} (hk : k < 255) : k < roundedPower a b v ↔ ReachesHalf a b v k := by
  rw [roundedPower_eq_count]
  exact lt_count_iff_of_downward (fun _ _ => ReachesHalf.of_le) hk

/-- Settles O11: the threshold below `R(v)` is reached; the one above it is not, or is past 255. -/
theorem gammaReferenceRounds : Obligations.GammaReferenceRounds := by
  refine fun a b v hb hv => ⟨roundedPower_le a b v, fun hpos => ?below, Nat.not_le.1 ?above⟩
  case below =>
    obtain ⟨k, hk⟩ := Nat.exists_eq_add_of_le' hpos
    have hle := roundedPower_le a b v
    rw [hk]
    exact (lt_roundedPower_iff a b v (by omega)).1 (by omega)
  case above =>
    rcases (roundedPower_le a b v).lt_or_eq with hlt | heq
    · exact fun h => absurd ((lt_roundedPower_iff a b v hlt).2 h) (Nat.lt_irrefl _)
    · rw [heq]
      exact not_reachesHalf_255 a hb hv

/-! ### The order of the reference levels -/

theorem roundedPower_mono (a b : Nat) {u v : Nat} (huv : u ≤ v) : roundedPower a b u ≤ roundedPower a b v := by
  rw [roundedPower_eq_count, roundedPower_eq_count]
  exact Nat.count_mono_left fun _ _ => ReachesHalf.mono huv

theorem referenceLevel_toNat (a b : Nat) (v : Byte) : (referenceLevel a b v).toNat = roundedPower a b v.toNat / 4 := by
  have hle := roundedPower_le a b v.toNat
  exact Nat.mod_eq_of_lt (by omega)

/-- Settles O12: the ends by the ends of the rounded value, the order by its order. -/
theorem gammaReferenceMonotone : Obligations.GammaReferenceMonotone := by
  refine fun a b ha _ => ⟨referenceLevel_zero b ha, referenceLevel_255 a b, fun u v huv => ?_⟩
  rw [referenceLevel_toNat, referenceLevel_toNat]
  exact Nat.div_le_div_right (roundedPower_mono a b huv)

/-! ### The gammas refused -/

theorem gammaInDomain_eq_false {gamma : BitVec 64}
    (h : gamma = 0#64 ∨ gamma.getLsbD 63 = true ∨ gamma.extractLsb' 52 11 = 0x7FF#11) : gammaInDomain gamma = false := by
  unfold gammaInDomain
  rcases h with hzero | hsign | hexp
  · simp [hzero]
  · have hbit : (gamma.extractLsb' 63 1).getLsbD 0 = true := by simpa using hsign
    have hne : gamma.extractLsb' 63 1 ≠ 0#1 := fun heq => by simp [heq] at hbit
    simp [hne]
  · simp [hexp]

/-- Settles O13: BUILDGAMMA's own test, which its step reaches with its operands fresh, fails. -/
theorem gammaOutsideDomainRefused : Obligations.GammaOutsideDomainRefused := by
  intro s ht hlut hout
  have hallows : s.allows .buildGamma = true := by simp [State.allows, State.gammaValid, hlut]
  obtain ⟨err, st, px, hfresh, hrun⟩ := State.command_takes ht hallows bodyBuildGamma
  have hbody : bodyBuildGamma (s.started .buildGamma err st px) = .refused .gammaOutsideDomain := by
    refine if_neg ?_
    rw [hfresh.gammaOperand, gammaInDomain_eq_false hout]
    exact Bool.false_ne_true
  exact hrun.trans hbody

end Sys2Proof.Machine
end

section
/-!
PROOFS. The dither table (40_tables.md R137 to R140): the bits of a mask, its popcount and its gaps, and BUILDDITHER's completion.
-/

namespace Sys2Proof.Machine

/-! ### BUILDDITHER -/

theorem ditherEntries_getElem (level : Fin 64) : ditherEntries[level] = ditherMask level.val :=
  Vector.getElem_ofFn level.isLt

/-- Settles O14: its step reaches BUILDDITHER's own part, which always completes (`bodyBuildDither_eq`). -/
theorem buildDitherLoadsTable : Obligations.BuildDitherLoadsTable := by
  intro s ht hlut
  have hallows : s.allows .buildDither = true := by simp [State.allows, State.ditherValid, hlut]
  obtain ⟨err, st, px, hfresh, hrun⟩ := State.command_takes ht hallows bodyBuildDither
  have hbody := bodyBuildDither_eq (s.started .buildDither err st px)
  rw [hfresh.complete] at hbody
  exact ⟨ditherEntries, hrun.trans hbody, ditherEntries_getElem⟩

/-! ### The bits of a mask -/

/-- One bit per element put into a mask. -/
theorem getLsbD_foldl_or_bit (pos : Nat → Nat) {f : Nat} (hf : f < 64) (l : List Nat) (m : Mask) :
    (l.foldl (fun m i => m ||| (1#64 <<< pos i)) m).getLsbD f = true ↔ m.getLsbD f = true ∨ ∃ i ∈ l, pos i = f := by
  induction l generalizing m with
  | nil => simp
  | cons i l ih =>
    have hbit : (1#64 <<< pos i).getLsbD f = true ↔ pos i = f := by
      rw [← BitVec.twoPow_eq, BitVec.getLsbD_twoPow, Bool.and_eq_true, decide_eq_true_iff, decide_eq_true_iff]
      omega
    rw [List.foldl_cons, ih, BitVec.getLsbD_or, Bool.or_eq_true, hbit, or_assoc, List.exists_mem_cons_iff]

theorem getLsbD_ditherMask {level f : Nat} (hf : f < 64) :
    (ditherMask level).getLsbD f = true ↔ ∃ i, i < level ∧ bitPos level i = f := by
  unfold ditherMask
  rw [getLsbD_foldl_or_bit _ hf]
  simp

/-- Settles O15: a mask is the union of the bits at its positions. -/
theorem ditherBitsAtQuotients : Obligations.DitherBitsAtQuotients := fun _ _ => getLsbD_ditherMask

/-- Settles O16: it is what BUILDDITHER asserts of every level. -/
theorem ditherPopcountIsLevel : Obligations.DitherPopcountIsLevel := fun level =>
  of_decide_eq_true (List.all_eq_true.1 ditherSound_holds level.toNat (List.mem_range.2 level.isLt))

/-! ### The gaps of a mask -/

/-- `64 / L` rounded up, 64 being 63 + 1. -/
theorem ceil_quotient_eq {level : Nat} (hl : 0 < level) : (64 + level - 1) / level = 63 / level + 1 := by
  rw [← Nat.add_div_right 63 hl]
  congr 1
  omega

theorem bitPos_zero (level : Nat) : bitPos level 0 = 0 := Nat.zero_div level

theorem bitPos_lt {level i : Nat} (hi : i < level) : bitPos level i < 64 :=
  Nat.div_lt_of_lt_mul (Nat.mul_comm level 64 ▸ Nat.mul_lt_mul_of_pos_left hi (by decide))

/-- The next position: what `64*i` leaves over `L` is below `L`, so it adds at most what rounding `64 / L` up adds. -/
theorem bitPos_succ_bounds {level : Nat} (hl : 0 < level) (i : Nat) :
    bitPos level i + 64 / level ≤ bitPos level (i + 1)
      ∧ bitPos level (i + 1) ≤ bitPos level i + (64 + level - 1) / level := by
  have hrem : 64 * i % level < level := Nat.mod_lt _ hl
  have hsplit : 64 * (i + 1) = (64 * i % level + 64) + level * (64 * i / level) := by
    have := Nat.mod_add_div (64 * i) level
    omega
  have hnext : bitPos level (i + 1) = (64 * i % level + 64) / level + bitPos level i := by
    unfold bitPos
    rw [hsplit, Nat.add_mul_div_left _ _ hl]
  have hlow : 64 / level ≤ (64 * i % level + 64) / level := Nat.div_le_div_right (by omega)
  have hhigh : (64 * i % level + 64) / level ≤ (64 + level - 1) / level := Nat.div_le_div_right (by omega)
  omega

theorem bitPos_succ {level : Nat} (hl : 0 < level) (i : Nat) :
    bitPos level (i + 1) = bitPos level i + 64 / level
      ∨ bitPos level (i + 1) = bitPos level i + (64 + level - 1) / level := by
  obtain ⟨hlow, hhigh⟩ := bitPos_succ_bounds hl i
  have hceil := ceil_quotient_eq hl
  have hfloor : 63 / level ≤ 64 / level := Nat.div_le_div_right (by decide)
  omega

/-- From the last position round to the first. -/
theorem bitPos_last_gap {level : Nat} (hl : 0 < level) :
    64 - bitPos level (level - 1) = (64 + level - 1) / level := by
  have hlast : bitPos level (level - 1) = 64 - (63 / level + 1) := by
    have hsub : 64 * (level - 1) = level * 64 - (63 + 1) := by omega
    unfold bitPos
    rw [hsub, Nat.mul_sub_div 63 level 64 (by omega)]
  rw [hlast, ceil_quotient_eq hl]
  exact Nat.sub_sub_self (Nat.succ_le_succ (Nat.div_le_self 63 level))

/-- From position `i` the next one, going round, is within the rounded-up quotient: position `i + 1`, or the first. -/
theorem ditherMask_next_bit {level i : Nat} (hl : level ≤ 64) (hi : i < level) :
    ∃ d : Fin 65, 0 < d.val ∧ d.val ≤ (64 + level - 1) / level
      ∧ (ditherMask level).getLsbD ((bitPos level i + d.val) % 64) = true := by
  have hpos : 0 < level := by omega
  have hlt := bitPos_lt hi
  by_cases hlast : i + 1 < level
  · have hfloor : 0 < 64 / level := Nat.div_pos hl hpos
    obtain ⟨hlow, hhigh⟩ := bitPos_succ_bounds hpos i
    have hlt' := bitPos_lt hlast
    refine ⟨⟨bitPos level (i + 1) - bitPos level i, by omega⟩, Nat.sub_pos_of_lt (by omega),
      Nat.sub_le_iff_le_add'.2 hhigh, ?_⟩
    rw [Nat.add_sub_cancel' (by omega), Nat.mod_eq_of_lt hlt']
    exact (getLsbD_ditherMask hlt').2 ⟨i + 1, hlast, rfl⟩
  · obtain rfl : i = level - 1 := by omega
    refine ⟨⟨64 - bitPos level (level - 1), by omega⟩, Nat.sub_pos_of_lt hlt, (bitPos_last_gap hpos).le, ?_⟩
    rw [Nat.add_sub_cancel' hlt.le, Nat.mod_self]
    exact (getLsbD_ditherMask (by decide)).2 ⟨0, hpos, bitPos_zero level⟩

/-- Settles O17: every set bit is a position, and the gaps between positions are those of their quotients. -/
theorem ditherGapBound : Obligations.DitherGapBound := by
  intro level hne
  have hpos : 0 < level.toNat := Nat.pos_of_ne_zero fun h => hne (BitVec.eq_of_toNat_eq h)
  refine ⟨fun f hf => ?_, fun i _ => bitPos_succ hpos i, bitPos_last_gap hpos⟩
  obtain ⟨i, hi, hfi⟩ := (getLsbD_ditherMask f.isLt).1 hf
  rw [← hfi]
  exact ditherMask_next_bit level.isLt.le hi

end Sys2Proof.Machine
end

section
/-!
PROOFS. The closed form of an encoded word (41_encoder.md R153 to R156): its bits, the word of the reference algorithm (R159),
and the number of sub-frames a signal is on in (R163).
-/

namespace Sys2Proof.Machine

/-! ### The bits of a word -/

/-- A fold whose every step leaves bit `k` set, or sets it where `P` holds, sets it when `P` holds of some element. -/
theorem getLsbD_foldl_iff {α : Type} {step : Word → α → Word} {P : α → Prop} {k : Nat}
    (hstep : ∀ acc a, (step acc a).getLsbD k = true ↔ acc.getLsbD k = true ∨ P a) (l : List α) (acc : Word) :
    (l.foldl step acc).getLsbD k = true ↔ acc.getLsbD k = true ∨ ∃ a ∈ l, P a := by
  induction l generalizing acc with
  | nil => simp
  | cons a l ih => rw [List.foldl_cons, ih, hstep, or_assoc, List.exists_mem_cons_iff]

/-- A signal's bit put into a word where its condition holds. -/
theorem getLsbD_ite_or_bit {c : Prop} [Decidable c] (acc : Word) (j k : BitVec 5) :
    (if c then acc ||| (1#32 <<< j.toNat) else acc).getLsbD k.toNat = true ↔
      acc.getLsbD k.toNat = true ∨ (c ∧ j = k) := by
  have hbit : (1#32 <<< j.toNat).getLsbD k.toNat = true ↔ j = k := by
    have hk := k.isLt
    rw [← BitVec.twoPow_eq, BitVec.getLsbD_twoPow, Bool.and_eq_true, decide_eq_true_iff, decide_eq_true_iff,
      BitVec.toNat_inj]
    exact ⟨fun h => h.2, fun h => ⟨h ▸ hk, h⟩⟩
  by_cases hc : c
  · rw [if_pos hc, BitVec.getLsbD_or, Bool.or_eq_true, hbit, and_iff_right hc]
  · rw [if_neg hc, or_iff_left fun h => hc h.1]

theorem EncodeInput.lit_iff (e : EncodeInput) (px : Nat → Nat → Byte) (f : SubFrame) (r : RowSel) (p : ScanPos) (w : Wire) :
    e.lit px f r p w = true ↔ ∃ x y, sourceOf e.cfg r p w.signal.panel w.signal.rowgroup = some (x, y)
      ∧ (e.mask (px (readKey f r p w) (pixelAddr e.cfg x y w.signal.colour))).getLsbD f.toNat = true := by
  unfold EncodeInput.lit
  cases hsrc : sourceOf e.cfg r p w.signal.panel w.signal.rowgroup with
  | none => simp
  | some xy => obtain ⟨x, y⟩ := xy; simp

theorem EncodeInput.getLsbD_word (e : EncodeInput) (px : Nat → Nat → Byte) (f : SubFrame) (r : RowSel) (p : ScanPos)
    (g : Gbank) (k : BitVec 5) : (e.word px f r p g).getLsbD k.toNat = true ↔
      ∃ w ∈ e.cfg.wiring, (w.gbank = g ∧ e.lit px f r p w = true) ∧ w.bit = k := by
  unfold EncodeInput.word
  exact (getLsbD_foldl_iff (fun acc w => getLsbD_ite_or_bit acc w.bit k) _ _).trans (or_iff_right (by simp))

/-- The mask of a channel byte: its level in the gamma table (R154), the level's mask in the dither table (R155). -/
theorem EncodeInput.getLsbD_mask (e : EncodeInput) (v : Byte) (f : Nat) : (e.mask v).getLsbD f = true ↔
    ∃ (level : Fin 64) (u : Fin 256), v = BitVec.ofNat 8 u.val ∧ (e.gamma[u]).toNat = level.val
      ∧ (e.dither[level]).getLsbD f = true := by
  constructor
  · intro h
    exact ⟨(e.gamma[v.toNat]'v.isLt).toFin, v.toFin, by simp, rfl, h⟩
  · rintro ⟨⟨_, _⟩, u, rfl, rfl, hbit⟩
    have hu : (BitVec.ofNat 8 u.val).toNat = u.val := Nat.mod_eq_of_lt u.isLt
    simpa [EncodeInput.mask, hu] using hbit

/-- Settles O20: a bit of the word is a lit wire's, a wire is lit where its source has a pixel whose mask has the bit, and a
mask's bit is that of the two tables. -/
theorem encodeWordBitOfSignal : Obligations.EncodeWordBitOfSignal := by
  intro e px f r p g k
  rw [e.getLsbD_word]
  refine exists_congr fun w => and_congr_right fun _ => ?_
  rw [and_right_comm, and_assoc, e.lit_iff]
  simp only [e.getLsbD_mask]
  rfl

/-! ### The reference algorithm (41_encoder.md R159) -/

theorem getLsbD_referenceSignals (e : EncodeInput) (m : Mask) (lane : Nat × Nat) (c : Colour) (f : SubFrame) (g : Gbank)
    (acc : Word) (k : BitVec 5) : (referenceSignals e m lane c f g acc).getLsbD k.toNat = true ↔
      acc.getLsbD k.toNat = true ∨ ∃ w ∈ e.cfg.wiring, (w.signal.panel, w.signal.rowgroup) = lane ∧ w.signal.colour = c
        ∧ m.getLsbD f.toNat = true ∧ w.gbank = g ∧ w.bit = k := by
  unfold referenceSignals
  rw [getLsbD_foldl_iff fun acc w => getLsbD_ite_or_bit acc w.bit k]
  simp only [List.mem_filter, decide_eq_true_iff, Prod.ext_iff, and_assoc]

theorem exists_mem_colours {P : Colour → Prop} : (∃ c ∈ [Colour.red, .green, .blue], P c) ↔ ∃ c, P c :=
  ⟨fun ⟨c, _, h⟩ => ⟨c, h⟩, fun ⟨c, h⟩ => ⟨c, by cases c <;> decide, h⟩⟩

theorem mem_lanes {cfg : Config} {w : Wire} (hw : w ∈ cfg.wiring) : (w.signal.panel, w.signal.rowgroup) ∈ lanes cfg :=
  List.mem_dedup.2 (List.mem_map_of_mem hw)

theorem getLsbD_referenceWord (e : EncodeInput) (px : Nat → Byte) (f : SubFrame) (r : RowSel) (p : ScanPos) (g : Gbank)
    (k : BitVec 5) : (referenceWord e px f r p g).getLsbD k.toNat = true ↔
      ∃ lane ∈ lanes e.cfg, ∃ x y, sourceOf e.cfg r p lane.1 lane.2 = some (x, y) ∧ ∃ c, ∃ w ∈ e.cfg.wiring,
        (w.signal.panel, w.signal.rowgroup) = lane ∧ w.signal.colour = c
          ∧ (e.mask (px (pixelAddr e.cfg x y c))).getLsbD f.toNat = true ∧ w.gbank = g ∧ w.bit = k := by
  unfold referenceWord
  refine (getLsbD_foldl_iff (fun acc lane => ?_) _ _).trans (or_iff_right (by simp))
  cases hsrc : sourceOf e.cfg r p lane.1 lane.2 with
  | none => simp
  | some xy =>
    obtain ⟨x, y⟩ := xy
    dsimp only
    rw [getLsbD_foldl_iff fun acc c =>
      getLsbD_referenceSignals e (e.mask (px (pixelAddr e.cfg x y c))) lane c f g acc k, exists_mem_colours]
    simp

/-- Settles O21: bit by bit, a signal the loops find in its lane and colour is a lit one of the closed form. -/
theorem encodeMatchesReferenceAlgorithm : Obligations.EncodeMatchesReferenceAlgorithm := by
  intro e px f r p g
  have hbits : ∀ k : BitVec 5, (referenceWord e px f r p g).getLsbD k.toNat = true ↔
      (e.word (fun _ a => px a) f r p g).getLsbD k.toNat = true := by
    intro k
    rw [getLsbD_referenceWord, e.getLsbD_word]
    simp only [e.lit_iff]
    constructor
    · rintro ⟨_, -, x, y, hsrc, _, w, hw, rfl, rfl, hmask, hg, hk⟩
      exact ⟨w, hw, ⟨hg, x, y, hsrc, hmask⟩, hk⟩
    · rintro ⟨w, hw, ⟨hg, x, y, hsrc, hmask⟩, hk⟩
      exact ⟨_, mem_lanes hw, x, y, hsrc, _, w, hw, rfl, rfl, hmask, hg, hk⟩
  refine BitVec.eq_of_getLsbD_eq fun k hk => Bool.eq_iff_iff.2 ?_
  simpa [Nat.mod_eq_of_lt hk] using hbits (BitVec.ofNat 5 k)

/-! ### On for as many sub-frames as its level (41_encoder.md R163) -/

/-- With an injective wiring a wire is known by its gbank and bit (10_state.md R24). -/
theorem Config.wire_unique {cfg : Config} (h : cfg.wiringOk = true) {w w' : Wire} (hw : w ∈ cfg.wiring)
    (hw' : w' ∈ cfg.wiring) (hg : w'.gbank = w.gbank) (hb : w'.bit = w.bit) : w' = w := by
  unfold Config.wiringOk at h
  rw [Bool.and_eq_true, decide_eq_true_iff, decide_eq_true_iff] at h
  exact List.inj_on_of_nodup_map h.2 hw' hw (Prod.ext hg hb)

/-- The bit of a wired signal is its own: no other signal sets it. -/
theorem EncodeInput.getLsbD_word_wire {e : EncodeInput} (h : e.cfg.wiringOk = true) {w : Wire} (hw : w ∈ e.cfg.wiring)
    (px : Nat → Nat → Byte) (f : SubFrame) (r : RowSel) (p : ScanPos) :
    (e.word px f r p w.gbank).getLsbD w.bit.toNat = e.lit px f r p w := by
  rw [Bool.eq_iff_iff, e.getLsbD_word]
  constructor
  · rintro ⟨w', hw', ⟨hg, hlit⟩, hb⟩
    exact Config.wire_unique h hw hw' hg hb ▸ hlit
  · exact fun hlit => ⟨w, hw, ⟨rfl, hlit⟩, rfl⟩

/-- BUILDDITHER's mask of a channel byte has as many bits as its level (40_tables.md R139). -/
theorem popcount_mask (cfg : Config) (gamma : GammaLut) (v : Fin 256) :
    popcount (EncodeInput.mask ⟨cfg, gamma, ditherEntries⟩ (BitVec.ofNat 8 v.val)) = (gamma[v]).toNat := by
  have hmask : EncodeInput.mask ⟨cfg, gamma, ditherEntries⟩ (BitVec.ofNat 8 v.val) = ditherMask (gamma[v]).toNat := by
    have hv : (BitVec.ofNat 8 v.val).toNat = v.val := Nat.mod_eq_of_lt v.isLt
    unfold EncodeInput.mask
    simp only [hv]
    exact ditherEntries_getElem (gamma[v]).toFin
  rw [hmask, ditherPopcountIsLevel]

/-- Settles O24: the sub-frames counted are the bits of the channel's mask, and BUILDDITHER's mask has as many as its level. -/
theorem onCountIsLevel : Obligations.OnCountIsLevel := by
  intro cfg gamma px w r p x y v hwiring hw hsrc hpx
  rw [← popcount_mask cfg gamma v]
  unfold popcount
  congr 1
  refine List.filter_congr fun f hf => ?_
  have hf' : (BitVec.ofNat 6 f).toNat = f := Nat.mod_eq_of_lt (List.mem_range.1 hf)
  rw [EncodeInput.getLsbD_word_wire hwiring hw]
  simp only [EncodeInput.lit, hsrc, pixelAddr, hpx, hf']

end Sys2Proof.Machine
end

section
/-!
PROOFS. ENCODE (41_encoder.md R151, R152, R157): its completion, what it leaves in the memory, its determinism (R164), the
rejection of a descriptor of wrong dimensions, and the alpha bytes it does not read (R162).
-/

namespace Sys2Proof.Machine

/-! ### What ENCODE's own part does, by its tests -/

/-- The boundary check of `bodyEncode`, of the descriptor as it reads it (R152). -/
abbrev State.descriptorPasses (s : State) : Bool :=
  dimensionsMatch s.cfg (s.portOperand .pixW) (s.portOperand .pixH) (s.portOperand .pixLen)

theorem bodyEncode_badDimensions {b : Sbank} {s : State} (hg : s.gammaLut ≠ none) (hd : s.ditherLut ≠ none)
    (hdim : s.descriptorPasses = false) :
    bodyEncode b s = .next (s.report .badDimensions s.recordedLength) := by
  obtain ⟨gamma, hg⟩ := Option.ne_none_iff_exists'.1 hg
  obtain ⟨dither, hd⟩ := Option.ne_none_iff_exists'.1 hd
  rw [bodyEncode_some hg hd, if_neg (Bool.eq_false_iff.1 hdim)]

theorem bodyEncode_stores {b : Sbank} {s : State} {gamma : GammaLut} {dither : DitherLut} (hg : s.gammaLut = some gamma)
    (hd : s.ditherLut = some dither) (hdim : s.descriptorPasses = true)
    (hmaps : (s.cfg.wiringOk && s.cfg.srcOk) = true) (hok : s.bases.ok = true) :
    bodyEncode b s =
      .next { (s.storeSchedule s.bases b ⟨s.cfg, gamma, dither⟩).complete 0#32 with own := s.own.afterEncode b } := by
  rw [bodyEncode_some hg hd, if_pos hdim, if_pos hmaps, State.onShared_ok hok]

/-- Each way ENCODE goes on, with the tests that lead there. -/
theorem bodyEncode_next_cases {b : Sbank} {s t : State} (h : bodyEncode b s = .next t) :
    ((s.gammaLut = none ∨ s.ditherLut = none) ∧ t = s.report .sequence (Command.encodeBank b).word)
    ∨ (s.gammaLut ≠ none ∧ s.ditherLut ≠ none ∧ s.descriptorPasses = false
        ∧ t = s.report .badDimensions s.recordedLength)
    ∨ ∃ gamma dither, s.gammaLut = some gamma ∧ s.ditherLut = some dither ∧ s.descriptorPasses = true
        ∧ (s.cfg.wiringOk && s.cfg.srcOk) = true ∧ s.bases.ok = true
        ∧ t = { (s.storeSchedule s.bases b ⟨s.cfg, gamma, dither⟩).complete 0#32 with own := s.own.afterEncode b } := by
  by_cases hnone : s.gammaLut = none ∨ s.ditherLut = none
  · exact .inl ⟨hnone, (Host.Outcome.next.inj ((bodyEncode_none hnone).symm.trans h)).symm⟩
  obtain ⟨hg, hd⟩ := not_or.1 hnone
  cases hdim : s.descriptorPasses with
  | false =>
    have hbody := bodyEncode_badDimensions (b := b) hg hd hdim
    exact .inr (.inl ⟨hg, hd, rfl, (Host.Outcome.next.inj (hbody.symm.trans h)).symm⟩)
  | true =>
    cases hmaps : s.cfg.wiringOk && s.cfg.srcOk with
    | false => cases (bodyEncode_defect hg hd hdim hmaps).symm.trans h
    | true =>
      obtain ⟨gamma, hg⟩ := Option.ne_none_iff_exists'.1 hg
      obtain ⟨dither, hd⟩ := Option.ne_none_iff_exists'.1 hd
      rw [bodyEncode_some hg hd, if_pos hdim, if_pos hmaps] at h
      obtain ⟨hok, h⟩ := State.onShared_next h
      exact .inr (.inr ⟨gamma, dither, hg, hd, rfl, rfl, hok, (Host.Outcome.next.inj h).symm⟩)

/-! ### Completion -/

/-- `EncodeReady`, of the tables and registers as the obligations name them. -/
theorem State.EncodeReady.of_registers {s : State} {bs : Bases} {gamma : GammaLut} {dither : DitherLut}
    (hg : s.gammaLut = some gamma) (hd : s.ditherLut = some dither) (hb : s.bound = some bs) (hok : bs.ok = true)
    (hw : s.port.pixW.toNat = s.cfg.width) (hh : s.port.pixH.toNat = s.cfg.height)
    (hlen : s.port.pixLen.toNat = s.cfg.width * s.cfg.height * 4) (hwiring : s.cfg.wiringOk = true)
    (hsrc : s.cfg.srcOk = true) : s.EncodeReady bs ⟨s.cfg, gamma, dither⟩ :=
  ⟨hg, hd, rfl, hb, hok, hw, hh, hlen, Bool.and_eq_true_iff.2 ⟨hwiring, hsrc⟩⟩

/-- Settles O18: the state ENCODE completes in is `EncodeReady`, the one it leaves `State.encoded`. -/
theorem encodeCompletes : Obligations.EncodeCompletes := by
  intro s b bs gamma dither ht hg hd hb hok hw hh hlen hwiring hsrc
  exact exec_encode_completes ht (.of_registers hg hd hb hok hw hh hlen hwiring hsrc)

/-- An ENCODE under which no pixel has been changed reads every pixel as it stands. -/
theorem exec_encode_unchanged {s : State} {b : Sbank} {bs : Bases} {e : EncodeInput} (ht : s.takes (.encodeBank b))
    (hpx : s.outstanding = some (.encodeBank b) → s.pixStale = []) (h : s.EncodeReady bs e) :
    exec (.encodeBank b) s = .next (s.encoded bs b e (fun _ a => s.pixByte a)) := by
  obtain ⟨px, hread, hexec⟩ := exec_encode_completes ht h
  obtain rfl : px = fun _ a => s.pixByte a := by
    funext key a
    refine (hread key a).resolve_right fun ⟨ho, hmem⟩ => ?_
    rw [hpx ho] at hmem
    cases hmem
  exact hexec

/-- Settles O19: the words by `frameLoad_encoded`, the bytes outside the sbank by the frame of its one store. -/
theorem encodeWritesClosedForm : Obligations.EncodeWritesClosedForm := by
  intro s t b bs gamma dither ht hpx hg hd hb hok hw hh hlen hwiring hsrc hexec
  have hready := State.EncodeReady.of_registers hg hd hb hok hw hh hlen hwiring hsrc
  obtain rfl := Host.Outcome.next.inj (hexec.symm.trans (exec_encode_unchanged ht hpx hready))
  refine ⟨fun f r p g => ?_, fun a ha => Memory.read_fill_out ha⟩
  have hword := s.frameLoad_encoded bs b ⟨s.cfg, gamma, dither⟩ (fun _ a => s.pixByte a) f r p g
  simpa only [State.frameLoad, Bases.frameAddr, frameOffset, siteOffset, schedBytes, Nat.add_assoc] using hword

/-! ### Determinism (41_encoder.md R164) -/

/-- A completed ENCODE leaves what the next one completes in. -/
theorem State.EncodeReady.encoded {s : State} {bs : Bases} {e : EncodeInput} (h : s.EncodeReady bs e) (b : Sbank)
    (px : Nat → Nat → Byte) : (s.encoded bs b e px).EncodeReady bs e :=
  ⟨h.gamma, h.dither, h.cfg, h.bound, h.basesOk, h.width, h.height, h.length, h.maps⟩

/-- With nothing outstanding the words of the sbank ENCODE wrote are inspected as it wrote them. -/
theorem State.fsWord_encoded (s : State) (bs : Bases) (b : Sbank) (e : EncodeInput) (px : Nat → Nat → Byte) (f : SubFrame)
    (r : RowSel) (p : ScanPos) (g : Gbank) : (s.encoded bs b e px).fsWord bs b f r p g = e.word px f r p g := by
  rw [State.fsWord_eq_frameLoad (State.mayStore_of_not_encode (Option.some_ne_none _).symm), s.frameLoad_encoded]

/-- Settles O23: the second ENCODE reads the same pixels and stores the same bytes over the first one's; the words are the
closed form in either sbank. -/
theorem encodeDeterministic : Obligations.EncodeDeterministic := by
  intro s bs gamma dither ha hg hd hb hok hw hh hlen hwiring hsrc
  have hready := State.EncodeReady.of_registers hg hd hb hok hw hh hlen hwiring hsrc
  refine ⟨fun b => ⟨_, _, exec_encode_issued ha hready, exec_encode_issued ⟨rfl, ha.2⟩ (hready.encoded b _), ?_⟩,
    _, _, exec_encode_issued ha hready, exec_encode_issued ha hready, fun f r p g => ?_⟩
  · exact Memory.fill_fill ..
  · rw [s.fsWord_encoded, s.fsWord_encoded]

/-! ### A descriptor of wrong dimensions (41_encoder.md R152) -/

theorem dimensionsMatch_iff (cfg : Config) (w h len : Word) : dimensionsMatch cfg w h len = true ↔
    w.toNat = cfg.width ∧ h.toNat = cfg.height ∧ len.toNat = cfg.width * cfg.height * 4 := by
  simp [dimensionsMatch, and_assoc]

/-- ENCODE that finds its descriptor registers unchanged checks what they hold. -/
theorem State.Fresh.descriptorPasses_iff {s : State} {b : Sbank} {err : Bool} {st : List (PortReg × Word)} {px : Memory}
    (h : s.Fresh (.encodeBank b) st px) : (s.started (.encodeBank b) err st px).descriptorPasses = true ↔
      s.port.pixW.toNat = s.cfg.width ∧ s.port.pixH.toNat = s.cfg.height
        ∧ s.port.pixLen.toNat = s.cfg.width * s.cfg.height * 4 := by
  have hread : ∀ r ∈ [PortReg.pixW, .pixH, .pixLen], r ≠ .status →
      (s.started (.encodeBank b) err st px).portOperand r = s.portRead r := fun r hr => h.portOperand hr
  rw [State.descriptorPasses, hread .pixW (by decide) (by decide), hread .pixH (by decide) (by decide),
    hread .pixLen (by decide) (by decide)]
  exact dimensionsMatch_iff ..

/-- Settles O25: ENCODE's step reaches its own part with the descriptor registers unchanged, and the boundary check fails. -/
theorem encodeRejectsDimensions : Obligations.EncodeRejectsDimensions := by
  intro s b ht hg hd hb hne
  obtain ⟨err, st, px, hfresh, hrun⟩ := State.command_takes ht (State.allows_encode hg hd hb b) (bodyEncode b)
  have hbody := bodyEncode_badDimensions (b := b) (s := s.started (.encodeBank b) err st px) hg hd
    (Bool.eq_false_iff.2 (mt hfresh.descriptorPasses_iff.1 (not_and_or.2 (hne.imp_right not_and_or.2))))
  rw [hfresh.recordedLength (by simp [operandsOf]), hfresh.reject rfl] at hbody
  exact hrun.trans hbody

/-! ### Alpha bytes (41_encoder.md R162) -/

/-- A colour byte is not an alpha byte (20_memory.md R61). -/
theorem pixelAddr_mod (cfg : Config) (x y : Nat) (c : Colour) : pixelAddr cfg x y c % 4 ≠ 3 := by
  unfold pixelAddr
  cases c <;> simp only [Colour.index] <;> omega

/-- The bytes ENCODE writes are the same for reads that agree on every byte but the alpha bytes. -/
theorem EncodeInput.byte_congr (e : EncodeInput) {px px' : Nat → Nat → Byte}
    (h : ∀ key a, a % 4 ≠ 3 → px' key a = px key a) : e.byte px' = e.byte px := by
  have hlit : e.lit px' = e.lit px := by
    funext f r p w
    simp only [EncodeInput.lit, h _ _ (pixelAddr_mod _ _ _ _)]
  funext o
  simp only [EncodeInput.byte, EncodeInput.word, hlit]

/-- The state with the pixel buffer replaced. -/
def State.withPix (s : State) (pix : Memory) : State := { s with pix := pix }

section Alpha

variable {s t : State} {pix : Memory} {b : Sbank}

theorem State.pixOperand_withPix (h : ∀ a, a % 4 ≠ 3 → pix.byteAt Config.resetPixByte a = s.pixByte a) (key a : Nat)
    (ha : a % 4 ≠ 3) : (s.withPix pix).pixOperand key a = s.pixOperand key a :=
  congrArg (pick · _ _) (h a ha)

theorem State.storeSchedule_withPix (h : ∀ a, a % 4 ≠ 3 → pix.byteAt Config.resetPixByte a = s.pixByte a) (bs : Bases)
    (b : Sbank) (e : EncodeInput) : (s.withPix pix).storeSchedule bs b e = (s.storeSchedule bs b e).withPix pix := by
  unfold State.storeSchedule
  rw [e.byte_congr (State.pixOperand_withPix h)]
  rfl

/-- ENCODE's own part goes on from either buffer: its tests do not read it, its stores agree. -/
theorem bodyEncode_withPix (h : ∀ a, a % 4 ≠ 3 → pix.byteAt Config.resetPixByte a = s.pixByte a)
    (hbody : bodyEncode b s = .next t) : bodyEncode b (s.withPix pix) = .next (t.withPix pix) := by
  rcases bodyEncode_next_cases hbody with
    ⟨hnone, rfl⟩ | ⟨hg, hd, hdim, rfl⟩ | ⟨gamma, dither, hg, hd, hdim, hmaps, hok, rfl⟩
  · exact bodyEncode_none (s := s.withPix pix) hnone
  · exact bodyEncode_badDimensions (s := s.withPix pix) hg hd hdim
  · rw [bodyEncode_stores (s := s.withPix pix) hg hd hdim hmaps hok, State.storeSchedule_withPix h]
    rfl

end Alpha

/-- Settles O22: each outcome of ENCODE that goes on is the same one from either buffer. -/
theorem encodeIgnoresAlpha : Obligations.EncodeIgnoresAlpha := by
  intro s t pix b hagree hexec
  show (s.withPix pix).command _ (bodyEncode b) = .next (t.withPix pix)
  rcases State.command_next hexec with ⟨ho, hbody⟩ | ⟨hbusy, hne, rfl⟩ | ⟨hbusy, hrej, rfl⟩ | ⟨hbusy, hf, ha, hbody⟩
  · exact (State.command_resume (s := s.withPix pix) ho).trans (bodyEncode_withPix (pix := pix) hagree hbody)
  · exact State.command_ignored hbusy hne
  · exact State.command_rejected hbusy hrej
  · exact (State.command_issue (s := s.withPix pix) (c := .encodeBank b) hbusy hf ha).trans
      (bodyEncode_withPix (s := s.issued _) (pix := pix) hagree hbody)

end Sys2Proof.Machine
end

section
/-!
PROOFS. BRIDGE (42_bridge.md R182 to R189): how its step gets to the reply, what it does with a reply that is there, and how it
holds for one that is not.
-/

namespace Sys2Proof.Machine

/-! ### Up to the reply (42_bridge.md R182, R189) -/

/-- The channel BRIDGE reads its reply from: the payload sent, once. -/
def State.sentChannel (s : State) : Channel :=
  { s.hs with
    state := .sent
    sentOut := if s.hs.state = .sent then s.hs.sentOut else s.hs.sentOut ++ s.cfg.payload }

theorem State.sentChannel_sent {s : State} (h : s.hs.state = .sent) : s.sentChannel = s.hs := by
  unfold State.sentChannel
  rw [if_pos h, ← h]

theorem State.sentChannel_unsent {s : State} (h : s.hs.state ≠ .sent) :
    s.sentChannel = { s.hs with state := .sent, sentOut := s.hs.sentOut ++ s.cfg.payload } := by
  unfold State.sentChannel
  rw [if_neg h]

/-- BRIDGE's own part gets to its read with the payload sent, by whether it had been sent before. -/
theorem bodyBridge_reads {s : State}
    (h : s.hs.state = .sent ∨ (s.hs.opens = true ∧ s.cfg.payload.length ≤ s.hs.accepts)) :
    bodyBridge s = bridgeRead { s with hs := s.sentChannel } := by
  unfold bodyBridge
  by_cases hsent : s.hs.state = .sent
  · rw [if_pos hsent, State.sentChannel_sent hsent]
  · obtain ⟨hopens, haccepts⟩ := h.resolve_left hsent
    rw [if_neg hsent, bridgeSend_sends hopens haccepts, State.sentChannel_unsent hsent]

theorem State.allows_bridge {s : State} (hb : s.bound = none) (hm : s.cfg.mode = .production) : s.allows .bridge = true := by
  simp [State.allows, State.bridged, hb, hm]

/-! ### With the reply (42_bridge.md R183 to R187) -/

theorem bridgeRead_replied {s : State} {h0 h1 h2 h3 : Byte} {rest : List Byte}
    (h : s.hs.inbox = h0 :: h1 :: h2 :: h3 :: rest) :
    bridgeRead s
      = bridgeBind (h3 ++ h2 ++ h1 ++ h0) { s with hs := { s.hs with state := .replied, inbox := rest } } := by
  unfold bridgeRead
  rw [h]
  rfl

/-- BRIDGE that has its reply, whether issued now or resumed, binds at the address replied. -/
theorem exec_bridge_replied {s : State} {h0 h1 h2 h3 : Byte} {rest : List Byte} (hsend : s.sendsPayload)
    (hreply : s.hs.inbox = h0 :: h1 :: h2 :: h3 :: rest) :
    ∃ err st px, s.Fresh .bridge st px ∧ exec .bridge s
      = bridgeBind (h3 ++ h2 ++ h1 ++ h0) { s.started .bridge err st px with hs := s.repliedChannel rest } := by
  obtain ⟨htakes, hbound, hmode, hchannel⟩ := hsend
  obtain ⟨err, st, px, hfresh, hrun⟩ := State.command_takes htakes (State.allows_bridge hbound hmode) bodyBridge
  exact ⟨err, st, px, hfresh, hrun.trans ((bodyBridge_reads (s := s.started .bridge err st px) hchannel).trans
    (bridgeRead_replied hreply))⟩

theorem bridgeBind_binds {a : Word} {s : State} (ha : regionOk a cbBytes = true)
    (hsize : (s.loadWord (a.toNat + cbOffSize)).toNat = framesetBytes)
    (hf : regionOk (s.loadWord (a.toNat + cbOffAddr)) framesetBytes = true)
    (hapart : regionsApart a (s.loadWord (a.toNat + cbOffAddr)) = true) :
    bridgeBind a s = .next { s.complete 0#32 with
      bound := some ⟨a, s.loadWord (a.toNat + cbOffAddr)⟩, copBases := ⟨a, s.loadWord (a.toNat + cbOffAddr)⟩ } := by
  unfold bridgeBind
  rw [if_pos ha]
  dsimp only
  rw [if_pos hsize, if_pos hf, if_pos hapart]

theorem bridgeBind_layoutMismatch {a : Word} {s : State} (ha : regionOk a cbBytes = true)
    (hsize : (s.loadWord (a.toNat + cbOffSize)).toNat ≠ framesetBytes) :
    bridgeBind a s = s.raise .layoutMismatch (s.loadWord (a.toNat + cbOffSize)) := by
  unfold bridgeBind
  rw [if_pos ha]
  dsimp only
  rw [if_neg hsize]

/-- A command completes with the channel as `hs`. -/
theorem State.Fresh.complete_channel {s : State} {c : Command} {err : Bool} {st : List (PortReg × Word)} {px : Memory}
    (h : s.Fresh c st px) (x : Word) (hs : Channel) :
    State.complete { s.started c err st px with hs := hs } x = { s.withCompletion x with hs := hs } := by
  rw [← h.complete (err := err)]
  rfl

/-- Settles O30: BRIDGE gets to the reply, and the descriptor passes every test of `bridgeBind`. -/
theorem bridgeBindsRegions : Obligations.BridgeBindsRegions := by
  rintro s h0 h1 h2 h3 rest a f hsend hreply rfl halign hspace rfl hsize hfalign hfspace hapart
  obtain ⟨err, st, px, hfresh, hrun⟩ := exec_bridge_replied hsend hreply
  have hbind := bridgeBind_binds (s := { s.started .bridge err st px with hs := s.repliedChannel rest })
    ((regionOk_iff ..).2 ⟨halign, hspace⟩) hsize ((regionOk_iff ..).2 ⟨hfalign, hfspace⟩) hapart
  rw [hfresh.complete_channel] at hbind
  exact hrun.trans hbind

/-- Settles O31: BRIDGE gets to the reply, and the size test of `bridgeBind` fails. -/
theorem bridgeLayoutMismatch : Obligations.BridgeLayoutMismatch := by
  rintro s h0 h1 h2 h3 rest a hsend hreply rfl halign hspace hsize
  obtain ⟨err, st, px, hfresh, hrun⟩ := exec_bridge_replied hsend hreply
  have hbind := bridgeBind_layoutMismatch (s := { s.started .bridge err st px with hs := s.repliedChannel rest })
    ((regionOk_iff ..).2 ⟨halign, hspace⟩) hsize
  exact hrun.trans (hbind.trans (hfresh.raise_fatal rfl _ _))

/-! ### Without the reply (42_bridge.md R183) -/

/-- BRIDGE's own part holds with the payload sent. -/
theorem bodyBridge_holds {s : State} (hl : s.hs.inbox.length < 4) (he : s.hs.ended = false)
    (h : s.hs.state = .sent ∨ (s.hs.opens = true ∧ s.cfg.payload.length ≤ s.hs.accepts)) :
    bodyBridge s = .next { s with hs := s.sentChannel } :=
  (bodyBridge_reads h).trans (bridgeRead_holds hl he)

/-- Settles O34: BRIDGE's own part holds whether it is issued now, at its first step after the port, or held already. -/
theorem bridgeHoldsForReply : Obligations.BridgeHoldsForReply := by
  intro s hl he
  refine ⟨fun hacc hbound hmode hsent hopens haccepts => ?issued, fun ho hsent hopens haccepts => ?first,
    fun ho hsent => ?held⟩
  case issued =>
    have hbody := bodyBridge_holds (s := s.issued .bridge) hl he (.inr ⟨hopens, haccepts⟩)
    rw [State.sentChannel_unsent (s := s.issued .bridge) hsent] at hbody
    exact (State.command_issue (s.not_busy_iff.2 hacc.1) hacc.2 (State.allows_bridge hbound hmode)).trans hbody
  case first =>
    have hbody := bodyBridge_holds hl he (.inr ⟨hopens, haccepts⟩)
    rw [State.sentChannel_unsent hsent] at hbody
    exact (State.command_resume ho).trans hbody
  case held =>
    have hbody := bodyBridge_holds hl he (.inl hsent)
    rw [State.sentChannel_sent hsent] at hbody
    exact (State.command_resume ho).trans hbody

end Sys2Proof.Machine
end

section
/-!
PROOFS. The invariant of the handoff (10_state.md R53, 43_synchronizer.md R215) and the transitions of an sbank's protocol state
(R201), by cases on what an event that keeps the caller contract can do to the handoff (`HandoffMoves`).
-/

namespace Sys2Proof.Machine

/-! ### What the handoff is made of -/

/-- The two handoff fields and COP's sbank are as before. -/
structure State.SameFields (s t : State) : Prop where
  ready : t.readyBank = s.readyBank
  start : t.startBank = s.startBank
  cur : t.cop.cur = s.cop.cur

/-- No store of SW has become less visible to COP. -/
def State.KeepsOrder (s t : State) : Prop :=
  ∀ b, (t.vis.get b = .pending → s.vis.get b = .pending) ∧ (s.vis.get b = .visible → t.vis.get b = .visible)

theorem State.SameFields.of_loadCb {s t : State} (hb : t.bases = s.bases)
    (hload : ∀ off ∈ [cbOffReady, cbOffStart], t.loadCb s.bases off = s.loadCb s.bases off) (hc : t.cop.cur = s.cop.cur) :
    s.SameFields t := by
  refine ⟨?_, ?_, hc⟩
  · unfold State.readyBank
    rw [hb]
    exact hload _ (by decide)
  · unfold State.startBank
    rw [hb]
    exact hload _ (by decide)

theorem State.SameFields.of_mem {s t : State} (hb : t.bases = s.bases) (hm : t.mem = s.mem) (hc : t.cop.cur = s.cop.cur) :
    s.SameFields t :=
  .of_loadCb hb (fun off _ => State.loadCb_congr hm s.bases off) hc

/-- A store into an sbank leaves the handoff fields (20_memory.md R75). -/
theorem State.SameFields.of_fill_sbank {s t : State} (hb : t.bases = s.bases)
    (hapart : regionsApart s.bases.cbBase s.bases.fsBase = true) {b : Sbank} {f : Nat → Byte}
    (hm : t.mem = s.mem.fill (s.bases.sbankBase b) schedBytes f) (hc : t.cop.cur = s.cop.cur) : s.SameFields t := by
  have hin : ∀ off ∈ [cbOffReady, cbOffStart], off + 4 ≤ 20 := by decide
  refine .of_loadCb hb (fun off hoff => ?_) hc
  unfold State.loadCb State.loadWord
  rw [hm]
  exact Memory.loadCb_fill_sbank hapart b f (hin off hoff)

/-- Counting a traversal and replaying on leave the two handoff fields. -/
theorem State.SameFields.of_replay (s : State) : s.SameFields ((s.countTraversal s.bases).acquireStores).replayOn := by
  have hfar : ∀ off ∈ [cbOffReady, cbOffStart], off + 4 ≤ cbOffCount ∨ cbOffCount + 4 ≤ off := by decide
  exact .of_loadCb (State.bases_congr (by simp) (by simp))
    (fun off hoff => countTraversal_loadCb s s.bases (hfar off hoff)) (by simp)

theorem State.KeepsOrder.of_eq {s t : State} (h : t.vis = s.vis) : s.KeepsOrder t := fun b => by
  rw [h]
  exact ⟨id, id⟩

theorem State.KeepsOrder.of_acquire {s t : State} (h : t.vis = s.vis.map Visibility.acquire) : s.KeepsOrder t := fun b => by
  rw [h, PerSbank.get_map]
  exact ⟨(Visibility.acquire_eq_pending _).1, fun hv => by rw [hv]; rfl⟩

/-- ENCODE gives SW no sbank it did not hold (10_state.md R42). -/
theorem Own.holds_of_afterEncode {o : Own} {b b' : Sbank} (h : (o.afterEncode b).holds b') : o.holds b' := by
  unfold Own.afterEncode at h
  split at h
  · rename_i hown
    rcases h with h | h
    · cases h
    · cases h
      exact hown
  · exact h

theorem Own.holds_granted {b b' : Sbank} (h : (Own.granted b).holds b') : b' = b := by
  rcases h with h | h <;> cases h
  rfl

theorem Own.not_holds_none (b : Sbank) : ¬ Own.none.holds b := by
  rintro (h | h) <;> cases h

/-- A fetch stays in its sbank (44_consumer.md R232). -/
theorem Coproc.advance_cur (poll : CopPoll) (c : Coproc) : (c.advance poll).cur = c.cur := by
  unfold Coproc.advance
  split_ifs <;> rfl

theorem AtWork.own {s s0 : State} {c : Command} (h : AtWork s c s0) : s0.own = s.own := by
  cases h <;> rfl

theorem AtWork.cop {s s0 : State} {c : Command} (h : AtWork s c s0) : s0.cop = s.cop := by
  cases h <;> rfl

theorem AtWork.vis {s s0 : State} {c : Command} (h : AtWork s c s0) : s0.vis = s.vis := by
  cases h <;> rfl

theorem AtWork.outstanding {s s0 : State} {c : Command} (h : AtWork s c s0) : s0.outstanding = some c := by
  cases h with
  | resumed ho => exact ho
  | issued => rfl

/-! ### What an event can do to the handoff -/

/-- What event `e` can make of the handoff of `s` when SW keeps the caller contract. -/
inductive HandoffMoves (e : Event) (s t : State) : Prop
  | kept (hf : s.SameFields t) (hown : ∀ b, t.own.holds b → s.own.holds b) (hvis : s.KeepsOrder t)
      (hout : ∀ b, t.outstanding = some (.encodeBank b) → t.own.holds b)
  /-- An ENCODE `b` completed, or cut short by a restart. -/
  | stored (b : Sbank) (hb : s.own.holds b) (hf : s.SameFields t) (hown : ∀ b, t.own.holds b → s.own.holds b)
      (hvis : t.vis = s.vis.set b .pending) (ho : t.outstanding = none)
  | granted (hr : s.readyBank = s.startBank) (hf : s.SameFields t) (hown : t.own = .granted (grantOf s.readyBank))
      (hvis : t.vis = s.vis) (ho : t.outstanding = none)
  | published (b : Sbank) (he : e.command? = some (.finish b)) (hb : s.own.holds b) (hready : t.readyBank = sbankWord b)
      (hstart : t.startBank = s.startBank) (hcur : t.cop.cur = s.cop.cur) (hown : t.own = .none)
      (hvis : t.vis = s.vis.map Visibility.release) (ho : t.outstanding = none)
  /-- COP adopts sbank `b` (44_consumer.md R235, R241). -/
  | adopted (b : Sbank) (he : e = .word 0x11#32) (hr : s.readyBank = sbankWord b) (hne : b ≠ s.cop.cur)
      (hready : t.readyBank = sbankWord b) (hstart : t.startBank = sbankWord b) (hcur : t.cop.cur = b) (hown : t.own = s.own)
      (hvis : t.vis = s.vis.map Visibility.acquire) (ho : t.outstanding = s.outstanding)

theorem State.HandoffSafe.readyBank_eq {s : State} (h : s.HandoffSafe) : ∃ b, s.readyBank = sbankWord b :=
  ⟨_, (sbankWord_setWidth h.readyLegal).symm⟩

section Moves

variable {e : Event} {s t : State}

/-- A step that leaves everything the handoff is made of. -/
theorem HandoffMoves.of_mem (hs : s.HandoffSafe) (hb : t.bases = s.bases) (hm : t.mem = s.mem) (hc : t.cop.cur = s.cop.cur)
    (hown : t.own = s.own) (hvis : t.vis = s.vis)
    (hout : ∀ b, t.outstanding = some (.encodeBank b) → s.outstanding = some (.encodeBank b)) : HandoffMoves e s t :=
  .kept (.of_mem hb hm hc) (fun b => by rw [hown]; exact id) (.of_eq hvis)
    (fun b ho => by rw [hown]; exact hs.encoding b (hout b ho))

/-- A restart takes every sbank from SW; one whose ENCODE it cuts short was held (70_reset_and_hazards.md R282). -/
theorem State.HandoffSafe.restart_moves (hs : s.HandoffSafe) (hb : s.restart.bases = s.bases) :
    HandoffMoves e s s.restart := by
  have hnone : ∀ b, s.restart.own.holds b → s.own.holds b := fun b h => absurd h (Own.not_holds_none b)
  rcases s.cutShort_cases with ⟨hcut, -⟩ | ⟨b, hmay, hcut⟩
  · exact .kept (.of_mem hb (s.restart_mem.trans (congrArg State.mem hcut)) rfl) hnone
      (.of_eq (s.restart_vis.trans (congrArg State.vis hcut))) (fun _ h => nomatch h)
  · exact .stored b (hs.encoding b (State.mayStore_iff.1 hmay).1)
      (.of_fill_sbank hb hs.apart (congrArg State.mem hcut) rfl) hnone (congrArg State.vis hcut) rfl

/-- FINISH's store is of `readyBank` alone (43_synchronizer.md R210). -/
theorem handoffFields_storeReady {b : Sbank} (hb : t.bases = s.bases)
    (hm : t.mem = s.mem.storeWord (s.bases.cbBase.toNat + cbOffReady) (sbankWord b)) :
    t.readyBank = sbankWord b ∧ t.startBank = s.startBank := by
  unfold State.readyBank State.startBank State.loadCb State.loadWord
  rw [hb, hm]
  exact ⟨Memory.loadWord_storeWord .., Memory.loadWord_storeWord_out (by unfold cbOffReady cbOffStart; omega)⟩

/-- The simulated COP's store is of `startBank` alone (44_consumer.md R241). -/
theorem handoffFields_storeStart {b : Sbank} (hb : t.bases = s.bases)
    (hm : t.mem = s.mem.storeWord (s.bases.cbBase.toNat + cbOffStart) (sbankWord b)) :
    t.readyBank = s.readyBank ∧ t.startBank = sbankWord b := by
  unfold State.readyBank State.startBank State.loadCb State.loadWord
  rw [hb, hm]
  exact ⟨Memory.loadWord_storeWord_out (by unfold cbOffReady cbOffStart; omega), Memory.loadWord_storeWord ..⟩

theorem Moves.handoff (h : Moves e s t) (hs : s.HandoffSafe) (hk : ∀ c, e.command? = some c → s.keepsContract c)
    (hb : t.bases = s.bases) : HandoffMoves e s t := by
  obtain ⟨b, hr⟩ := hs.readyBank_eq
  cases h with
  | issue c he =>
    refine .kept (.of_mem hb rfl rfl) (fun _ => id) (.of_eq rfl) (fun b ho => ?_)
    obtain rfl : c = .encodeBank b := Option.some.inj ho
    exact hk _ he
  | reject s0 _ _ hs0 => rcases hs0 with rfl | ⟨c, rfl⟩ <;> exact .of_mem hs hb rfl rfl rfl rfl (fun _ h => nomatch h)
  | gammaDone _ _ hw | ditherDone _ _ hw | encodeRejected _ _ _ _ _ hw =>
    exact .of_mem hs hb hw.mem (congrArg Coproc.cur hw.cop) hw.own hw.vis (fun _ h => nomatch h)
  | bridged s0 _ _ hw hf =>
    refine .of_mem hs hb (hf.mem.trans hw.mem) (congrArg Coproc.cur (hf.cop.trans hw.cop)) (hf.own.trans hw.own)
      (hf.vis.trans hw.vis) (fun b ho => ?_)
    rcases hf.outstanding with ho' | ⟨ho', -, -⟩ <;> rw [ho'] at ho
    · cases ho
    · cases hw.outstanding.symm.trans ho
  | encodeDone b s0 gamma dither he hw =>
    exact .stored b (hk _ he) (.of_fill_sbank hb hs.apart (congrArg (fun m => Memory.fill m _ _ _) hw.mem)
      (congrArg Coproc.cur hw.cop)) (fun _ => Own.holds_of_afterEncode) (congrArg (fun v => PerSbank.set v b _) hw.vis) rfl
  | waitDone s0 _ hw _ heq => exact .granted heq (.of_mem hb hw.mem (congrArg Coproc.cur hw.cop)) rfl hw.vis rfl
  | finishDone b s0 he hw =>
    obtain ⟨hready, hstart⟩ := handoffFields_storeReady hb (congrArg (fun m => Memory.storeWord m _ _) hw.mem)
    exact .published b he (.inr (hk _ he)) hready hstart (congrArg Coproc.cur hw.cop) rfl
      (congrArg (fun v => PerSbank.map v _) hw.vis) rfl
  | switched he _ _ _ _ hn =>
    rw [hr]
    rw [hr] at hn
    change HandoffMoves e s (s.adopted b)
    exact .adopted b he hr (fun hc => hn (congrArg sbankWord hc)) ((s.adopted_readyBank b).trans hr) (s.adopted_startBank b)
      (congrArg Coproc.cur (s.adopted_cop b)) (by simp [State.adopted]) (by simp [State.adopted]) (by simp [State.adopted])
  | copied he _ _ _ hn =>
    rw [hr] at hb hn ⊢
    obtain ⟨hready, hstart⟩ := handoffFields_storeStart hb rfl
    exact .adopted b he hr (fun hc => hn (hs.curStarted.trans (congrArg sbankWord hc.symm)).symm) (hready.trans hr) hstart
      (setWidth_sbankWord b) rfl rfl rfl
  | replayed =>
    exact .kept (.of_replay s) (by simp) (.of_acquire (by simp)) (by simpa using hs.encoding)
  | looked => exact .kept (.of_mem hb rfl rfl) (fun _ => id) (.of_acquire rfl) hs.encoding
  | fetched => exact .of_mem hs hb rfl (s.cop.advance_cur s.cfg.copPoll) rfl rfl (fun _ => id)
  | restarted => exact hs.restart_moves hb
  | _ => exact .of_mem hs hb rfl rfl rfl rfl (fun _ => id)

/-! ### The invariant -/

/-- While COP has another sbank to adopt, the fields are not equal. -/
theorem State.HandoffSafe.not_equal_of_pending {b b' : Sbank} (hs : s.HandoffSafe) (hr : s.readyBank = sbankWord b)
    (hne : b ≠ s.cop.cur) : ¬ (s.readyBank = sbankWord b' ∧ s.startBank = sbankWord b') := fun ⟨hready, hstart⟩ =>
  hne (sbankWord_inj.1 (hr.symm.trans (hready.trans (hstart.symm.trans hs.curStarted))))

/-- While COP has another sbank to adopt, SW holds none. -/
theorem State.HandoffSafe.not_holds_of_pending {b : Sbank} (hs : s.HandoffSafe) (hr : s.readyBank = sbankWord b)
    (hne : b ≠ s.cop.cur) (b' : Sbank) : ¬ s.own.holds b' :=
  fun h => hs.not_equal_of_pending hr hne (hs.held b' h)

/-- While COP has another sbank to adopt, a release has been ordered after every store. -/
theorem State.HandoffSafe.vis_ne_pending {b : Sbank} (hs : s.HandoffSafe) (hr : s.readyBank = sbankWord b)
    (hne : b ≠ s.cop.cur) (b' : Sbank) : s.vis.get b' ≠ .pending :=
  fun h => hs.not_equal_of_pending hr hne (hs.unpublished b' h)

theorem HandoffMoves.curStarted (h : HandoffMoves e s t) (hs : s.HandoffSafe) : t.startBank = sbankWord t.cop.cur := by
  cases h with
  | kept hf | stored _ _ hf | granted _ hf => rw [hf.start, hf.cur, hs.curStarted]
  | published _ _ _ _ hstart hcur => rw [hstart, hcur, hs.curStarted]
  | adopted _ _ _ _ _ hstart hcur => rw [hstart, hcur]

theorem HandoffMoves.readyLegal (h : HandoffMoves e s t) (hs : s.HandoffSafe) : t.readyBank.toNat ≤ 1 := by
  cases h with
  | kept hf | stored _ _ hf | granted _ hf => rw [hf.ready]; exact hs.readyLegal
  | published b _ _ hready | adopted b _ _ _ hready => rw [hready]; exact sbankWord_toNat_le b

/-- SW comes to hold an sbank by a grant only, and COP's switch finds it holding none. -/
theorem HandoffMoves.held (h : HandoffMoves e s t) (hs : s.HandoffSafe) {b : Sbank} (hb : t.own.holds b) :
    t.readyBank = sbankWord (otherSbank b) ∧ t.startBank = sbankWord (otherSbank b) := by
  cases h with
  | kept hf hown | stored _ _ hf hown =>
    rw [hf.ready, hf.start]
    exact hs.held b (hown b hb)
  | granted hr hf hown =>
    have hready : s.readyBank = sbankWord s.cop.cur := hr.trans hs.curStarted
    rw [hown, hready, grantOf_sbankWord] at hb
    rw [Own.holds_granted hb, hf.ready, hf.start, otherSbank_otherSbank]
    exact ⟨hready, hs.curStarted⟩
  | published _ _ _ _ _ _ hown => exact absurd (hown ▸ hb) (Own.not_holds_none b)
  | adopted _ _ hr hne _ _ _ hown => exact absurd (hown ▸ hb) (hs.not_holds_of_pending hr hne b)

/-- Stores come to be pending in an sbank held only, and FINISH releases all. -/
theorem HandoffMoves.unpublished (h : HandoffMoves e s t) (hs : s.HandoffSafe) {b : Sbank} (hb : t.vis.get b = .pending) :
    t.readyBank = sbankWord (otherSbank b) ∧ t.startBank = sbankWord (otherSbank b) := by
  cases h with
  | kept hf _ hvis =>
    rw [hf.ready, hf.start]
    exact hs.unpublished b ((hvis b).1 hb)
  | stored b' hb' hf _ hvis =>
    rw [hf.ready, hf.start]
    by_cases hne : b = b'
    · exact hne ▸ hs.held b' hb'
    · rw [hvis, PerSbank.get_set_ne _ _ hne] at hb
      exact hs.unpublished b hb
  | granted _ hf _ hvis =>
    rw [hf.ready, hf.start]
    exact hs.unpublished b (hvis ▸ hb)
  | published _ _ _ _ _ _ _ hvis =>
    rw [hvis, PerSbank.get_map] at hb
    exact absurd hb (Visibility.release_ne_pending _)
  | adopted _ _ hr hne _ _ _ _ hvis =>
    rw [hvis, PerSbank.get_map, Visibility.acquire_eq_pending] at hb
    exact absurd hb (hs.vis_ne_pending hr hne b)

theorem HandoffMoves.encoding (h : HandoffMoves e s t) (hs : s.HandoffSafe) {b : Sbank}
    (hb : t.outstanding = some (.encodeBank b)) : t.own.holds b := by
  cases h with
  | kept _ _ _ hout => exact hout b hb
  | stored _ _ _ _ _ ho | granted _ _ _ _ ho | published _ _ _ _ _ _ _ _ ho => cases ho.symm.trans hb
  | adopted _ _ _ _ _ _ _ hown _ ho =>
    rw [hown]
    exact hs.encoding b (ho ▸ hb)

/-- ENCODE does not store to COP's sbank, and COP's switch acquires the stores to the one it adopts. -/
theorem HandoffMoves.activeVisible (h : HandoffMoves e s t) (hs : s.HandoffSafe) : t.vis.get t.cop.cur = .visible := by
  cases h with
  | kept hf _ hvis =>
    rw [hf.cur]
    exact (hvis _).2 hs.activeVisible
  | stored b hb hf _ hvis =>
    rw [hf.cur, hvis, PerSbank.get_set_ne _ _ (hs.ne_cur_of_holds hb).symm]
    exact hs.activeVisible
  | granted _ hf _ hvis =>
    rw [hf.cur, hvis]
    exact hs.activeVisible
  | published _ _ _ _ _ hcur _ hvis =>
    rw [hcur, hvis, PerSbank.get_map, Visibility.release_eq_visible]
    exact hs.activeVisible
  | adopted b _ hr hne _ _ hcur _ hvis =>
    rw [hcur, hvis, PerSbank.get_map, Visibility.acquire_eq_visible]
    exact hs.vis_ne_pending hr hne b

theorem HandoffMoves.safe (h : HandoffMoves e s t) (hs : s.HandoffSafe) (hb : t.bases = s.bases) : t.HandoffSafe where
  basesOk := hb ▸ hs.basesOk
  apart := hb ▸ hs.apart
  curStarted := h.curStarted hs
  readyLegal := h.readyLegal hs
  held _ := h.held hs
  unpublished _ := h.unpublished hs
  encoding _ := h.encoding hs
  activeVisible := h.activeVisible hs

end Moves

/-- The schedule is no part of the handoff. -/
theorem State.HandoffSafe.withSched {s : State} (h : s.HandoffSafe) (l : List Event) : { s with sched := l }.HandoffSafe :=
  ⟨h.basesOk, h.apart, h.curStarted, h.readyLegal, h.held, h.unpublished, h.encoding, h.activeVisible⟩

/-- A step that keeps the caller contract is idle or does one of `HandoffMoves`. -/
theorem State.HandoffSafe.step_moves {s t : State} (hs : s.HandoffSafe) (hk : s.nextKeepsContract) (hstep : step s = .next t)
    (hb : t.bases = s.bases) :
    t = s ∨ ∃ e rest, s.sched = e :: rest ∧ HandoffMoves e { s with sched := rest } t := by
  obtain ⟨-, ⟨-, rfl⟩ | ⟨e, rest, hsched, hev⟩⟩ := step_next hstep
  · exact .inl rfl
  · exact .inr ⟨e, rest, hsched, (stepEvent_moves hev).handoff (hs.withSched rest) (fun c he => hk e rest c hsched he) hb⟩

/-- Settles O53: an idle step changes nothing, and each of `HandoffMoves` keeps every part of the invariant. -/
theorem stepKeepsHandoffSafe : Obligations.StepKeepsHandoffSafe := by
  intro s t hs hk hstep hb
  obtain rfl | ⟨e, rest, -, hmoves⟩ := hs.step_moves hk hstep hb
  · exact hs
  · exact hmoves.safe (hs.withSched rest) hb

/-! ### The protocol state of an sbank (10_state.md R38) -/

section BankState

variable {s : State} {b : Sbank}

theorem State.bankState_active (h : s.startBank = sbankWord b) : s.bankState b = .active := if_pos h

theorem State.bankState_ready (hstart : s.startBank = sbankWord (otherSbank b)) (hready : s.readyBank = sbankWord b) :
    s.bankState b = .ready := by
  unfold State.bankState
  rw [hstart, if_neg (mt sbankWord_inj.1 (otherSbank_ne b)), if_pos hready]

theorem State.bankState_idle (hstart : s.startBank = sbankWord (otherSbank b))
    (hready : s.readyBank = sbankWord (otherSbank b)) : s.bankState b = .idle := by
  unfold State.bankState
  rw [hstart, hready, if_neg (mt sbankWord_inj.1 (otherSbank_ne b))]
  exact if_neg (mt sbankWord_inj.1 (otherSbank_ne b))

theorem State.SameFields.bankState {t : State} (h : s.SameFields t) (b : Sbank) : t.bankState b = s.bankState b := by
  unfold State.bankState
  rw [h.ready, h.start]

end BankState

/-- A FINISH `b` of an sbank held makes `b`, which is Idle, Ready and leaves the other one, which is Active. -/
theorem State.HandoffSafe.bankState_published {s t : State} {b : Sbank} (hs : s.HandoffSafe) (hb : s.own.holds b)
    (hready : t.readyBank = sbankWord b) (hstart : t.startBank = s.startBank) :
    s.bankState b = .idle ∧ t.bankState b = .ready ∧ t.bankState (otherSbank b) = s.bankState (otherSbank b) := by
  obtain ⟨hr, hst⟩ := hs.held b hb
  exact ⟨State.bankState_idle hst hr, State.bankState_ready (hstart.trans hst) hready,
    (State.bankState_active (hstart.trans hst)).trans (State.bankState_active hst).symm⟩

/-- COP's switch to `b` makes `b`, which is Ready, Active and the other one, which is Active, Idle. -/
theorem State.HandoffSafe.bankState_adopted {s t : State} {b : Sbank} (hs : s.HandoffSafe) (hr : s.readyBank = sbankWord b)
    (hne : b ≠ s.cop.cur) (hready : t.readyBank = sbankWord b) (hstart : t.startBank = sbankWord b) :
    s.bankState b = .ready ∧ t.bankState b = .active
      ∧ s.bankState (otherSbank b) = .active ∧ t.bankState (otherSbank b) = .idle := by
  have hst : s.startBank = sbankWord (otherSbank b) := by rw [hs.curStarted, eq_otherSbank_of_ne hne.symm]
  refine ⟨State.bankState_ready hst hr, State.bankState_active hstart, State.bankState_active hst, State.bankState_idle ?_ ?_⟩
  · rw [otherSbank_otherSbank, hstart]
  · rw [otherSbank_otherSbank, hready]

/-- Settles O54: of `HandoffMoves` only a FINISH and COP's switch change a handoff field. -/
theorem bankStateTransitions : Obligations.BankStateTransitions := by
  intro s t b hs hk hstep hb
  obtain rfl | ⟨e, rest, hsched, hmoves⟩ := hs.step_moves hk hstep hb
  · exact .inl rfl
  · have hs' := hs.withSched rest
    cases hmoves with
    | kept hf | stored _ _ hf | granted _ hf => exact .inl (hf.bankState b)
    | published b' he hb' hready hstart =>
      obtain ⟨hidle, hrdy, hother⟩ := hs'.bankState_published hb' hready hstart
      by_cases hbb : b = b'
      · subst hbb
        exact .inr (.inl ⟨hidle, hrdy, e, rest, hsched, he⟩)
      · rw [eq_otherSbank_of_ne hbb]
        exact .inl hother
    | adopted b' he hr hne hready hstart =>
      obtain ⟨hrdy, hactive, hactive', hidle⟩ := hs'.bankState_adopted hr hne hready hstart
      rw [he] at hsched
      by_cases hbb : b = b'
      · subst hbb
        exact .inr (.inr (.inl ⟨⟨rest, hsched⟩, hrdy, hactive, hactive', hidle⟩))
      · rw [eq_otherSbank_of_ne hbb, otherSbank_otherSbank]
        exact .inr (.inr (.inr ⟨⟨rest, hsched⟩, hactive', hidle, hrdy, hactive⟩))

end Sys2Proof.Machine
end

section
/-!
PROOFS. WAITREADY and FINISH (43_synchronizer.md R202 to R213): the grant, the hold, the publication; and that an outstanding
WAITREADY completes after COP's next boundary and poll (R216).
-/

namespace Sys2Proof.Machine

/-! ### WAITREADY -/

theorem State.allows_waitReady {s : State} (h : s.bound ≠ none) : s.allows .waitReady = true := by
  simpa [State.allows, State.bridged, Option.isSome_iff_ne_none] using h

/-- R202, R204: with no handoff pending WAITREADY's own part grants the sbank that is not active. -/
theorem bodyWaitReady_grants {s : State} {a : Sbank} (hok : s.bases.ok = true) (hr : s.readyBank = sbankWord a)
    (hst : s.startBank = sbankWord a) :
    bodyWaitReady s = .next { s.complete (sbankWord (otherSbank a)) with own := .granted (otherSbank a) } := by
  have hready : s.loadCb s.bases cbOffReady = sbankWord a := hr
  have hstart : s.loadCb s.bases cbOffStart = sbankWord a := hst
  unfold bodyWaitReady
  rw [State.onShared_ok hok]
  dsimp only
  rw [hready, hstart, if_pos rfl, grantOf_sbankWord]

/-- R203: while a handoff is pending it holds. -/
theorem bodyWaitReady_holds {s : State} (hok : s.bases.ok = true) (hne : s.readyBank ≠ s.startBank) :
    bodyWaitReady s = .next s :=
  (State.onShared_ok hok _).trans (if_neg hne)

/-- A WAITREADY outstanding completes once the fields are equal (R203). -/
theorem exec_waitReady_resumed {s : State} {a : Sbank} (ho : s.outstanding = some .waitReady) (hok : s.bases.ok = true)
    (hr : s.readyBank = sbankWord a) (hst : s.startBank = sbankWord a) :
    exec .waitReady s = .next { s.complete (sbankWord (otherSbank a)) with own := .granted (otherSbank a) } :=
  (State.command_resume ho).trans (bodyWaitReady_grants hok hr hst)

/-- Settles O35: WAITREADY is issued, and its own part grants. -/
theorem waitReadyGrants : Obligations.WaitReadyGrants := by
  intro s a ⟨ho, hf⟩ hb hok hr hst
  have hbody := bodyWaitReady_grants (s := s.issued .waitReady) hok hr hst
  rw [State.complete_issued ho] at hbody
  exact (State.command_issue (s.not_busy_iff.2 ho) hf (State.allows_waitReady hb)).trans hbody

/-- Settles O36: WAITREADY's own part holds, issued now or outstanding, until the fields are equal. -/
theorem waitReadyHolds : Obligations.WaitReadyHolds := by
  intro s hok
  refine ⟨fun hacc hb hne => ?issued, fun ho hne => ?held, fun a ho hr hst => ?completes⟩
  case issued =>
    exact (State.command_issue (s.not_busy_iff.2 hacc.1) hacc.2 (State.allows_waitReady hb)).trans
      (bodyWaitReady_holds (s := s.issued .waitReady) hok hne)
  case held => exact (State.command_resume ho).trans (bodyWaitReady_holds hok hne)
  case completes => exact ⟨_, exec_waitReady_resumed ho hok hr hst, rfl, rfl, rfl, rfl, rfl, rfl⟩

/-! ### FINISH -/

/-- FINISH leaves every ControlBlock field but `readyBank`. -/
theorem State.finished_loadCb {s : State} {bs : Bases} (hb : s.bound = some bs) (b : Sbank) {off : Nat}
    (h : off + 4 ≤ cbOffReady ∨ cbOffReady + 4 ≤ off) :
    (s.finished bs b).loadCb (s.finished bs b).bases off = s.loadCb s.bases off := by
  have hbases : (s.finished bs b).bases = bs := State.bases_of_bound hb
  rw [hbases, State.bases_of_bound hb]
  exact Memory.loadWord_storeWord_out (by omega)

/-- Settles O37: FINISH completes in `State.finished`, whose one store is of `readyBank`. -/
theorem finishPublishes : Obligations.FinishPublishes := fun s b bs htakes hb hok =>
  ⟨s.finished bs b, exec_finish_completes htakes hb hok, rfl, State.finished_readyBank hb b,
    State.finished_loadCb hb b (by decide), State.finished_loadCb hb b (by decide), fun _ => Memory.read_fill_out⟩

/-! ### The fetches up to COP's next boundary -/

/-- The number of the cursor's site in storage order (44_consumer.md R232). -/
def Coproc.site (c : Coproc) : Nat := c.f.toNat * 1024 + c.r.toNat * 64 + c.p.toNat

theorem Coproc.site_lt (c : Coproc) : c.site < 65536 := by
  have hf := c.f.isLt
  have hr := c.r.isLt
  have hp := c.p.isLt
  unfold Coproc.site
  omega

/-- A fetch moves the cursor to the next site unless it meets a boundary (44_consumer.md R232). -/
theorem Coproc.advance_site (poll : CopPoll) (c : Coproc) (h : (c.advance poll).atBoundary = false) :
    (c.advance poll).site = c.site + 1 := by
  unfold Coproc.advance at h ⊢
  unfold Coproc.site
  split_ifs at h ⊢ with hp hr
  · dsimp only
    bv_omega
  · dsimp only
    bv_omega
  · have hf : c.f ≠ 63#6 := fun hf => by simp [hf] at h
    dsimp only
    bv_omega

/-- Away from a boundary a fetch changes COP and the draws of races alone: COP stays in its sbank and comes to a boundary or to
the next site. -/
theorem exec_copFetch_advances {s : State} (hcop : s.cfg.cop = .contract) (hb : s.cop.atBoundary = false)
    (hok : s.bases.ok = true) :
    ∃ c d, exec .copFetch s = .next { s with cop := c, draws := d } ∧ c.cur = s.cop.cur
      ∧ (c.atBoundary = true ∨ c.site = s.cop.site + 1) := by
  refine ⟨_, _, exec_copFetch_enabled hcop hb hok, s.cop.advance_cur s.cfg.copPoll, ?_⟩
  cases hb' : (s.cop.advance s.cfg.copPoll).atBoundary with
  | true => exact .inl rfl
  | false => exact .inr (s.cop.advance_site s.cfg.copPoll hb')

/-- COP reaches a boundary within the sites left of the traversal. The state there differs in COP, which has stayed in its
sbank, and in the draws of races. -/
theorem execAll_fetches_reach_boundary {s : State} (hcop : s.cfg.cop = .contract) (hok : s.bases.ok = true) :
    ∃ n c d, n + s.cop.site ≤ 65536 ∧ c.cur = s.cop.cur ∧ c.atBoundary = true
      ∧ ∀ is, execAll (List.replicate n .copFetch ++ is) s = execAll is { s with cop := c, draws := d } := by
  have hlt := s.cop.site_lt
  induction hk : 65536 - s.cop.site generalizing s with
  | zero => omega
  | succ k ih =>
    cases hb : s.cop.atBoundary with
    | true => exact ⟨0, s.cop, s.draws, by omega, rfl, hb, fun is => rfl⟩
    | false =>
      obtain ⟨c, d, hfetch, hcur, hcb | hsite⟩ := exec_copFetch_advances hcop hb hok
      · exact ⟨1, c, d, by omega, hcur, hcb, fun is => execAll_cons hfetch is⟩
      · obtain ⟨n, c', d', hn, hcur', hcb, hrun⟩ := ih (s := { s with cop := c, draws := d }) hcop hok c.site_lt
          (by dsimp only; omega)
        dsimp only at hn hcur'
        exact ⟨n + 1, c', d', by omega, hcur'.trans hcur, hcb, fun is => (execAll_cons hfetch _).trans (hrun is)⟩

/-! ### COP's poll, and WAITREADY's next step -/

/-- COP at a boundary replays the sbank it has when `readyBank` names it (44_consumer.md R234). -/
theorem exec_copPoll_replays {s : State} (hcop : s.cfg.cop = .contract) (hb : s.cop.atBoundary = true)
    (hok : s.bases.ok = true) (hr : s.readyBank = sbankWord s.cop.cur) :
    exec .copPoll s = .next ((s.countTraversal s.bases).acquireStores).replayOn := by
  have hload : (s.countTraversal s.bases).loadCb s.bases cbOffReady = sbankWord s.cop.cur :=
    (countTraversal_loadCb s s.bases (by decide)).trans hr
  have hle := sbankWord_toNat_le s.cop.cur
  show execCopPoll s = _
  unfold execCopPoll
  rw [hcop]
  show pollContract s = _
  unfold pollContract
  rw [if_pos hb, State.onShared_ok hok]
  dsimp only
  rw [hload, State.countTraversal_cop, if_neg (by omega), if_neg (not_not.2 rfl)]

/-- After COP's poll at a boundary no handoff is pending, whether it switches or replays (44_consumer.md R233). -/
theorem exec_copPoll_acknowledges {s : State} {b : Sbank} (hcop : s.cfg.cop = .contract) (hb : s.cop.atBoundary = true)
    (hok : s.bases.ok = true) (hr : s.readyBank = sbankWord b) (hst : s.startBank = sbankWord s.cop.cur) :
    ∃ t, exec .copPoll s = .next t ∧ t.outstanding = s.outstanding ∧ t.bases = s.bases
      ∧ t.readyBank = sbankWord t.cop.cur ∧ t.startBank = sbankWord t.cop.cur := by
  by_cases hbb : b = s.cop.cur
  · subst hbb
    have hf := State.SameFields.of_replay s
    refine ⟨_, exec_copPoll_replays hcop hb hok hr, by simp, State.bases_congr (by simp) (by simp), ?_, ?_⟩
    · rw [hf.ready, hf.cur, hr]
    · rw [hf.start, hf.cur, hst]
  · refine ⟨_, exec_copPoll_switches hcop hb hok hr hbb, by simp [State.adopted], s.adopted_bases b, ?_, ?_⟩
    · rw [s.adopted_readyBank, s.adopted_cop, hr]
    · rw [s.adopted_startBank, s.adopted_cop]

/-- Settles O55: the fetches left bring COP to a boundary with the handoff fields as they were, its poll leaves no handoff
pending, and the WAITREADY held completes. -/
theorem waitReadyProgress : Obligations.WaitReadyProgress := by
  intro s hs ho hcop
  obtain ⟨b, hr⟩ := hs.readyBank_eq
  obtain ⟨n, c, d, hn, hcur, hcb, hrun⟩ := execAll_fetches_reach_boundary hcop hs.basesOk
  obtain ⟨u, hpoll, hu, hbases, hready, hstart⟩ := exec_copPoll_acknowledges (s := { s with cop := c, draws := d }) hcop hcb
    hs.basesOk hr (hcur ▸ hs.curStarted)
  have hwait := exec_waitReady_resumed (hu.trans ho) (hbases ▸ hs.basesOk) hready hstart
  refine ⟨n, _, by omega, (hrun _).trans ((execAll_cons hpoll _).trans (execAll_cons hwait [])), rfl, ?_, hstart, rfl, rfl⟩
  exact hready.trans hstart.symm

end Sys2Proof.Machine
end

section
/-!
PROOFS. COP and MON (44_consumer.md R231 to R242): the fetch and the cursor, the poll of the contract and the simulated one, what
no step of COP changes, the sample, the steps an agent does not have, and the hold nobody ends without a coprocessor.
-/

namespace Sys2Proof.Machine

/-! ### COP.FETCH (44_consumer.md R231, R232) -/

/-- A Frameset word is loaded at its base plus `off(b, f, r, p, g)` (30_encoding.md R105). -/
theorem State.frameLoad_eq (s : State) (bs : Bases) (b : Sbank) (f : SubFrame) (r : RowSel) (p : ScanPos) (g : Gbank) :
    s.frameLoad bs b f r p g = s.loadWord (bs.fsBase.toNat
      + (b.toNat * 1048576 + f.toNat * 16384 + r.toNat * 1024 + p.toNat * 16 + g.toNat * 4)) := by
  unfold State.frameLoad Bases.frameAddr frameOffset siteOffset schedBytes
  simp only [Nat.add_assoc]

theorem State.races_eq_false {s : State} {b : Sbank} (hv : s.vis.get b = .visible) (hm : s.mayStore b = false) :
    s.races b = false := by
  unfold State.races
  rw [hv, hm]
  rfl

/-- A fetch that does not race returns the DoublePixel at the cursor. -/
theorem State.fetchWords_ordered {s : State} (h : s.races s.cop.cur = false) (bs : Bases) : s.fetchWords bs =
    ⟨s.frameLoad bs s.cop.cur s.cop.f s.cop.r s.cop.p 0, s.frameLoad bs s.cop.cur s.cop.f s.cop.r s.cop.p 1,
     s.frameLoad bs s.cop.cur s.cop.f s.cop.r s.cop.p 2, s.frameLoad bs s.cop.cur s.cop.f s.cop.r s.cop.p 3⟩ :=
  if_neg (by rw [h]; decide)

/-- Settles O38: the enabled fetch where `races` does not hold, each of its words at its address. -/
theorem fetchReadsDoublePixel : Obligations.FetchReadsDoublePixel := by
  intro s hcop hb hok hvis hmay
  have hraces := State.races_eq_false hvis hmay
  have hfetch := exec_copFetch_enabled hcop hb hok
  rw [hraces, if_neg Bool.false_ne_true] at hfetch
  refine ⟨_, hfetch, s.cop.advance_cur s.cfg.copPoll, ?_, rfl⟩
  rw [State.fetchWords_ordered hraces]
  simp only [State.frameLoad_eq]
  rfl

/-- `advance` goes to the next site modulo the 65 536 of an sbank. -/
theorem Coproc.advance_site_mod (poll : CopPoll) (c : Coproc) : (c.advance poll).site = (c.site + 1) % 65536 := by
  unfold Coproc.advance Coproc.site
  split_ifs with hp hr <;> dsimp only <;> bv_omega

/-- `advance` comes to a boundary past the last site of a Frame: of every Frame when COP polls at Frames, else of frame 63. -/
theorem Coproc.advance_atBoundary_iff (poll : CopPoll) {c : Coproc} (h : c.atBoundary = false) :
    (c.advance poll).atBoundary = true ↔ (c.p = 63#6 ∧ c.r = 15#4) ∧ (c.f = 63#6 ∨ poll = .frame) := by
  unfold Coproc.advance
  split_ifs with hp hr
  · simp [h, hp]
  · simp [h, hr]
  · simp [not_not.1 hp, not_not.1 hr]

theorem Coproc.frame_end_iff (c : Coproc) : (c.p = 63#6 ∧ c.r = 15#4) ↔ c.site % 1024 = 1023 := by
  unfold Coproc.site
  bv_omega

theorem Coproc.traversal_end_iff (c : Coproc) : (c.site % 1024 = 1023 ∧ c.f = 63#6) ↔ c.site = 65535 := by
  unfold Coproc.site
  bv_omega

/-- Settles O40: the site `advance` goes to, and the boundary in terms of the site it leaves. -/
theorem fetchAdvancesInStorageOrder : Obligations.FetchAdvancesInStorageOrder := by
  intro poll c hb
  refine ⟨c.advance_cur poll, c.advance_site_mod poll, ?_⟩
  show _ ↔ c.site = 65535 ∨ (poll = .frame ∧ c.site % 1024 = 1023)
  rw [Coproc.advance_atBoundary_iff poll hb, c.frame_end_iff, and_or_left, c.traversal_end_iff, and_comm (b := poll = _)]

/-! ### What COP.POLL comes to -/

theorem exec_copPoll_contract {s : State} (hc : s.cfg.cop = .contract) : exec .copPoll s = pollContract s := by
  show execCopPoll s = _
  unfold execCopPoll
  rw [hc]

theorem exec_copPoll_simulated {s : State} (hc : s.cfg.cop = .simulated) : exec .copPoll s = pollSimulated s := by
  show execCopPoll s = _
  unfold execCopPoll
  rw [hc]

theorem exec_copPoll_absent {s : State} (hc : s.cfg.cop = .absent) : exec .copPoll s = .next s := by
  show execCopPoll s = _
  unfold execCopPoll
  rw [hc]

/-- COP.FETCH is a step of the contract's coprocessor away from a boundary only. -/
theorem exec_copFetch_disabled {s : State} (h : s.cfg.cop ≠ .contract ∨ s.cop.atBoundary = true) :
    exec .copFetch s = .next s :=
  if_neg fun ⟨hc, hb⟩ => h.elim (fun hne => hne hc) fun hb' => Bool.false_ne_true (hb.symm.trans hb')

theorem pollContract_illegal {s : State} (hb : s.cop.atBoundary = true) (hok : s.bases.ok = true)
    (hr : 1 < s.readyBank.toNat) : pollContract s = .fault .readyBankIllegal := by
  have hload : (s.countTraversal s.bases).loadCb s.bases cbOffReady = s.readyBank :=
    countTraversal_loadCb s s.bases (by decide)
  unfold pollContract
  rw [if_pos hb, State.onShared_ok hok]
  dsimp only
  rw [hload, if_pos hr]

theorem pollSimulated_ok {s : State} (hok : s.bases.ok = true) : pollSimulated s =
    if 1 < s.readyBank.toNat then .fault .readyBankIllegal
    else if s.readyBank ≠ s.startBank then
      .next { s.acquireStores.storeCb s.bases cbOffStart s.readyBank with
        cop := { s.cop with cur := s.readyBank.setWidth 1 } }
    else .next s.acquireStores :=
  State.onShared_ok hok _

/-- Settles O43: both polls test the `readyBank` they load. -/
theorem pollFaultsOnIllegalReady : Obligations.PollFaultsOnIllegalReady := by
  rintro s (⟨hc, hb⟩ | hc) hok hr
  · rw [exec_copPoll_contract hc, pollContract_illegal hb hok hr]
  · rw [exec_copPoll_simulated hc, pollSimulated_ok hok, if_pos hr]

/-! ### The poll of the contract (44_consumer.md R233 to R237) -/

/-- A boundary's count changes the memory alone. -/
theorem State.countTraversal_eq (s : State) (bs : Bases) :
    s.countTraversal bs = { s with mem := (s.countTraversal bs).mem } := by
  unfold State.countTraversal
  split <;> rfl

/-- What a poll that switches changes. -/
theorem State.switched_eq (s : State) (bs : Bases) (n : Word) :
    ((s.countTraversal bs).acquireStores).switchTo bs n = { s with
      mem := (s.countTraversal bs).mem.storeWord (bs.cbBase.toNat + cbOffStart) n
      vis := s.vis.map Visibility.acquire
      cop := { s.cop with cur := n.setWidth 1, f := 0#6, r := 0#4, p := 0#6, atBoundary := false } } := by
  rw [s.countTraversal_eq bs]
  rfl

/-- What a poll that replays on changes. -/
theorem State.replayed_eq (s : State) (bs : Bases) :
    ((s.countTraversal bs).acquireStores).replayOn = { s with
      mem := (s.countTraversal bs).mem
      vis := s.vis.map Visibility.acquire
      cop := { s.cop with atBoundary := false } } := by
  rw [s.countTraversal_eq bs]
  rfl

theorem State.adopted_frameCount (s : State) (b : Sbank) : (s.adopted b).frameCount =
    if s.cop.f = 0#6 ∧ s.cop.r = 0#4 ∧ s.cop.p = 0#6 then s.frameCount + 1#32 else s.frameCount := by
  unfold State.frameCount
  rw [s.adopted_bases, ← countTraversal_count]
  exact Memory.loadWord_storeWord_out (by unfold cbOffCount cbOffStart; omega)

/-- Settles O41: the poll goes to `State.adopted`, whose two stores are of `frameCount` and of `startBank`. -/
theorem pollSwitches : Obligations.PollSwitches := by
  intro s b hc hb hok hr hne
  refine ⟨s.adopted b, exec_copPoll_switches hc hb hok hr hne, ?_, s.adopted_startBank b, s.adopted_readyBank b,
    s.adopted_frameCount b, fun a hcount hstart => ?_⟩
  · rw [State.adopted, State.switched_eq, setWidth_sbankWord]
  · exact (Memory.read_fill_out hstart).trans (countTraversal_read s s.bases hcount)

/-- Settles O42: the poll counts and replays on, and its one store is of `frameCount`. -/
theorem pollReplays : Obligations.PollReplays := by
  intro s hc hb hok hr
  have hf := State.SameFields.of_replay s
  have hbases : ((s.countTraversal s.bases).acquireStores).replayOn.bases = s.bases :=
    State.bases_congr (by simp) (by simp)
  refine ⟨_, exec_copPoll_replays hc hb hok hr, s.replayed_eq s.bases, hf.start, hf.ready, ?_,
    fun a hcount => countTraversal_read s s.bases hcount⟩
  unfold State.frameCount
  rw [hbases, ← countTraversal_count]
  rfl

/-! ### The simulated poll (44_consumer.md R241) -/

/-- The state a simulated poll leaves that copies sbank `b` to `startBank`. -/
def State.copied (s : State) (b : Sbank) : State :=
  { s.acquireStores.storeCb s.bases cbOffStart (sbankWord b) with cop := { s.cop with cur := b } }

/-- The simulated poll of a legal `readyBank` copies it unless `startBank` holds it already. -/
theorem exec_copPoll_copies {s : State} {b : Sbank} (hc : s.cfg.cop = .simulated) (hok : s.bases.ok = true)
    (hr : s.readyBank = sbankWord b) : exec .copPoll s =
      if sbankWord b = s.startBank then .next s.acquireStores else .next (s.copied b) := by
  have hle := sbankWord_toNat_le b
  rw [exec_copPoll_simulated hc, pollSimulated_ok hok, hr, if_neg (by omega), setWidth_sbankWord, ite_not]
  rfl

theorem State.copied_frameCount (s : State) (b : Sbank) : (s.copied b).frameCount = s.frameCount :=
  s.acquireStores.loadCb_storeCb_ne s.bases (sbankWord b) (by decide)

/-- Settles O44: by whether `startBank` holds the sbank already. -/
theorem simulatedPollCopies : Obligations.SimulatedPollCopies := by
  intro s b hc hok hr
  have hfetch : exec .copFetch s = .next s := exec_copFetch_disabled (.inl (by rw [hc]; decide))
  have hpoll := exec_copPoll_copies hc hok hr
  by_cases heq : s.startBank = sbankWord b
  · rw [if_pos heq.symm] at hpoll
    exact ⟨_, hpoll, heq, rfl, rfl, fun _ => ⟨rfl, rfl⟩, fun hne => absurd heq hne, hfetch⟩
  · rw [if_neg (Ne.symm heq)] at hpoll
    obtain ⟨hready, hstart⟩ := handoffFields_storeStart (s := s) (t := s.copied b) rfl rfl
    exact ⟨_, hpoll, hstart, hready, s.copied_frameCount b, fun h => absurd h heq, fun _ => rfl, hfetch⟩

/-! ### What no step of COP changes (44_consumer.md R238) -/

/-- From `s` to `t` COP's own state, the visibility of SW's stores and the draws alone have changed, and of the memory
`frameCount` and `startBank`. -/
structure CopFrame (s t : State) : Prop where
  rest : t = { s with mem := t.mem, cop := t.cop, vis := t.vis, draws := t.draws }
  read : ∀ a, (a < s.bases.cbBase.toNat + 0x08 ∨ s.bases.cbBase.toNat + 0x0C ≤ a) →
    (a < s.bases.cbBase.toNat + 0x10 ∨ s.bases.cbBase.toNat + 0x14 ≤ a) → t.mem.read a = s.mem.read a

theorem CopFrame.refl (s : State) : CopFrame s s := ⟨rfl, fun _ _ _ => rfl⟩

theorem pollContract_frame {s t : State} (h : pollContract s = .next t) : CopFrame s t := by
  rcases pollContract_next h with rfl | ⟨-, -, -, ⟨-, rfl⟩ | ⟨-, rfl⟩⟩
  · exact .refl _
  · rw [State.switched_eq]
    exact ⟨rfl, fun a hcount hstart => (Memory.read_fill_out hstart).trans (countTraversal_read s s.bases hcount)⟩
  · rw [State.replayed_eq]
    exact ⟨rfl, fun a hcount _ => countTraversal_read s s.bases hcount⟩

theorem pollSimulated_frame {s t : State} (h : pollSimulated s = .next t) : CopFrame s t := by
  obtain ⟨-, -, ⟨-, rfl⟩ | ⟨-, rfl⟩⟩ := pollSimulated_next h
  · exact ⟨rfl, fun a _ hstart => Memory.read_fill_out hstart⟩
  · exact ⟨rfl, fun _ _ _ => rfl⟩

theorem exec_copPoll_frame {s t : State} (h : exec .copPoll s = .next t) : CopFrame s t := by
  cases hc : s.cfg.cop with
  | contract => exact pollContract_frame ((exec_copPoll_contract hc).symm.trans h)
  | simulated => exact pollSimulated_frame ((exec_copPoll_simulated hc).symm.trans h)
  | absent =>
    cases (exec_copPoll_absent hc).symm.trans h
    exact .refl s

/-- Settles O45: the fetch by what it can do, the poll by `CopFrame`. -/
theorem copWritesOnlyItsFields : Obligations.CopWritesOnlyItsFields := by
  rintro s t i (rfl | rfl) h
  · rcases execCopFetch_next h with rfl | ⟨-, -, -, rfl⟩
    · exact ⟨rfl, fun _ => ⟨rfl, rfl⟩, fun _ _ _ => rfl⟩
    · exact ⟨rfl, fun _ => ⟨rfl, s.cop.advance_cur s.cfg.copPoll⟩, fun _ _ _ => rfl⟩
  · have hframe := exec_copPoll_frame h
    exact ⟨hframe.rest, nofun, hframe.read⟩

/-! ### MON.SAMPLE, and the steps an agent does not have (44_consumer.md R240, R242) -/

/-- Settles O46: the bases are bound, and the load is of `frameCount`. -/
theorem monSampleReadsCounter : Obligations.MonSampleReadsCounter := fun _ hb hok =>
  (if_pos (Option.isSome_iff_ne_none.2 hb)).trans (State.onShared_ok hok _)

theorem exec_monSample_unbound {s : State} (h : s.bound = none) : exec .monSample s = .next s :=
  if_neg (by simp [State.bridged, h])

theorem exec_copPoll_noBoundary {s : State} (hc : s.cfg.cop = .contract) (hb : s.cop.atBoundary = false) :
    exec .copPoll s = .next s :=
  (exec_copPoll_contract hc).trans (if_neg (by rw [hb]; decide))

/-- Settles O47: each step by the guard it fails. -/
theorem disabledStepsStandStill : Obligations.DisabledStepsStandStill := fun _ =>
  ⟨fun hb => exec_copFetch_disabled (.inr hb), exec_copPoll_noBoundary, exec_monSample_unbound,
    fun hc => ⟨exec_copFetch_disabled (.inl (by rw [hc]; decide)), exec_copPoll_absent hc⟩⟩

/-! ### Without a coprocessor (44_consumer.md R242, 43_synchronizer.md R205) -/

/-- While one command is outstanding no other is at work (10_state.md R29). -/
theorem AtWork.command_eq {s s0 : State} {c c' : Command} (h : AtWork s c s0) (ho : s.outstanding = some c') : c = c' := by
  cases h with
  | resumed ho' => exact Option.some.inj (ho'.symm.trans ho)
  | issued ho' => cases ho'.symm.trans ho

/-- What a WAITREADY that holds waits on is as before. -/
structure State.SameWait (s t : State) : Prop where
  outstanding : t.outstanding = s.outstanding
  ready : t.readyBank = s.readyBank
  start : t.startBank = s.startBank
  own : t.own = s.own
  cfg : t.cfg = s.cfg

/-- With no coprocessor nothing stores `startBank`, and with WAITREADY outstanding no other command stores or completes. -/
theorem Moves.sameWait_of_absent {e : Event} {s t : State} (h : Moves e s t) (hc : s.cfg.cop = .absent)
    (ho : s.outstanding = some .waitReady) (hne : s.readyBank ≠ s.startBank) (he : e ≠ .restart) : s.SameWait t := by
  cases h with
  | issue _ _ hnone | reject _ _ _ _ _ hnone => cases hnone.symm.trans ho
  | gammaDone _ _ hw | ditherDone _ _ hw | encodeDone _ _ _ _ _ hw | encodeRejected _ _ _ _ _ hw | bridged _ _ _ hw
  | finishDone _ _ _ hw => cases hw.command_eq ho
  | waitDone _ _ _ _ heq => exact absurd heq hne
  | fetched _ hcop | switched _ hcop | replayed _ hcop | copied _ hcop | looked _ hcop => cases hcop.symm.trans hc
  | restarted hrestart => exact absurd hrestart he
  | still | sampled | operand | looksAtPort | pixel | channel => exact ⟨rfl, rfl, rfl, rfl, rfl⟩

/-- Settles O60: an idle step changes nothing, and no event but a restart changes what the WAITREADY waits on. -/
theorem absentCoprocessorStuck : Obligations.AbsentCoprocessorStuck := by
  intro s t hc ho hne hstep hrestart
  obtain ⟨-, ⟨-, rfl⟩ | ⟨e, rest, hsched, hev⟩⟩ := step_next hstep
  · exact ⟨ho, rfl, rfl, rfl, rfl⟩
  · have hwait := (stepEvent_moves hev).sameWait_of_absent hc ho hne fun he => hrestart rest (he ▸ hsched)
    exact ⟨hwait.outstanding.trans ho, hwait.ready, hwait.start, hwait.own, hwait.cfg⟩

end Sys2Proof.Machine
end

section
/-!
PROOFS. Errors (60_exceptions.md R260 to R266): what raising one leaves, by class; the commands the lifecycle or a fatal error
rejects, by the trace word and by the port; and the fatal latch.
-/

namespace Sys2Proof.Machine

/-! ### Raising an error (60_exceptions.md R263) -/

/-- What an error reports when nothing has been changed under the command that ends. -/
theorem State.report_unchanged {s : State} (hst : s.stale = []) (hpx : s.pixStale = []) (e : ErrCode) (info : Word) :
    s.report e info = { s with
      outstanding := none, err := true, fatal := s.fatal || decide (e.errClass = .fatal)
      port := { s.port with errCode := e.code, errInfo := info } } := by
  cases s
  cases hst
  cases hpx
  rfl

/-- Settles O29: the two classes the machine goes on from report, and differ in the latch. -/
theorem errorEntry : Obligations.ErrorEntry := by
  intro s e info hst hpx
  refine ⟨fun he => ?reject, fun he => ?fatal, fun he => ?fault⟩
  case reject =>
    rw [State.raise_of_ne_fault (by rw [he]; decide), State.report_unchanged hst hpx, he]
    simp
  case fatal =>
    rw [State.raise_of_ne_fault (by rw [he]; decide), State.report_unchanged hst hpx, he]
    simp
  case fault => simp only [State.raise, he]

/-! ### A command that is rejected (60_exceptions.md R260, R262) -/

/-- A command a fatal error or the lifecycle rejects leaves `E_SEQUENCE` and its word, whatever its own part is. -/
theorem State.command_rejects {s : State} (ho : s.outstanding = none) {c : Command}
    (h : s.fatal = true ∨ s.allows c = false) (body : State → Out) :
    s.command c body = .next (s.withError 8#32 c.word) := by
  rw [State.command_rejected (s.not_busy_iff.2 ho) h, State.report_issued ho c rfl]
  rfl

theorem encode_of_command? {i : Instr} {c : Command} (h : i.command? = some c) : encode i = c.word := by
  cases i <;> cases h <;> rfl

/-- The rejection by the command's trace word. -/
theorem exec_rejects {s : State} (ho : s.outstanding = none) {i : Instr} {c : Command} (hc : i.command? = some c)
    (h : s.fatal = true ∨ s.allows c = false) : exec i s = .next (s.withError 8#32 (encode i)) := by
  obtain ⟨body, hexec⟩ := exec_eq_command hc s
  rw [hexec, State.command_rejects ho h, encode_of_command? hc]

/-- The rejection of the command's word written to `CMD`. -/
theorem stepEvent_cmd_rejects {s : State} (ho : s.outstanding = none) {w : Word} {c : Command} (hd : decodeCmd w = .ok c)
    (h : s.fatal = true ∨ s.allows c = false) :
    stepEvent (.portWrite 0x00 w) s = .next (s.withError 8#32 w) := by
  rw [stepEvent_cmd_legal hd, State.command_rejects ho h, decodeCmd_word hd]

/-- When the lifecycle does not allow a command, in the terms of the table of 60_exceptions.md R260. -/
def State.bars (s : State) (c : Command) : Prop :=
  match c with
  | .buildGamma => s.gammaLut ≠ none
  | .buildDither => s.ditherLut ≠ none
  | .encodeBank _ => s.gammaLut = none ∨ s.ditherLut = none ∨ s.bound = none
  | .bridge => s.bound ≠ none ∨ s.cfg.mode = .offline
  | .waitReady => s.bound = none
  | .finish _ => s.bound = none

theorem State.allows_eq_false_iff (s : State) (c : Command) : s.allows c = false ↔ s.bars c := by
  cases c with
  | buildGamma => simp [State.allows, State.bars, State.gammaValid, Option.isSome_iff_ne_none]
  | buildDither => simp [State.allows, State.bars, State.ditherValid, Option.isSome_iff_ne_none]
  | encodeBank b =>
    simp [State.allows, State.bars, State.gammaValid, State.ditherValid, State.bridged, imp_iff_not_or, or_assoc]
  | bridge =>
    have hmode : s.cfg.mode ≠ .production ↔ s.cfg.mode = .offline := by cases s.cfg.mode <;> decide
    simp [State.allows, State.bars, State.bridged, ← hmode, imp_iff_not_or]
  | waitReady | finish b => simp [State.allows, State.bars, State.bridged]

/-- Both ways of issuing a command the lifecycle does not allow. -/
theorem State.rejects_of_bars {s : State} (hs : s.accepts) {i : Instr} {c : Command} (hc : i.command? = some c)
    (h : s.bars c) : exec i s = .next (s.withError 8#32 (encode i))
      ∧ stepEvent (.portWrite 0x00 (encode i)) s = .next (s.withError 8#32 (encode i)) := by
  have hbar : s.fatal = true ∨ s.allows c = false := .inr ((s.allows_eq_false_iff c).2 h)
  have hd : decodeCmd (encode i) = .ok c := by simp [decodeCmd, hc]
  exact ⟨exec_rejects hs.1 hc hbar, stepEvent_cmd_rejects hs.1 hd hbar⟩

/-- Settles O27: each row of the table is a `State.bars`, and each word the encoding of its command. -/
theorem lifecycleRejects : Obligations.LifecycleRejects := fun _ hs =>
  ⟨State.rejects_of_bars (i := .buildGamma) hs rfl,
    State.rejects_of_bars (i := .buildDither) hs rfl,
    fun b => State.rejects_of_bars (i := .encodeBank b) hs rfl,
    State.rejects_of_bars (i := .bridge) hs rfl,
    State.rejects_of_bars (i := .waitReady) hs rfl,
    fun b => State.rejects_of_bars (i := .finish b) hs rfl⟩

/-! ### The fatal latch (60_exceptions.md R266, 10_state.md R43) -/

/-- After a fatal error an illegal word is rejected as every other (R262). -/
theorem State.badCommand_fatal {s : State} (ho : s.outstanding = none) (hf : s.fatal = true) (w : Word) :
    s.badCommand w = .next (s.withError 8#32 w) := by
  rw [State.badCommand, if_neg (by simp [s.not_busy_iff.2 ho]), if_pos hf, State.raise_sequence, State.report_begun ho rfl]
  rfl

theorem stepEvent_cmd_fatal {s : State} (ho : s.outstanding = none) (hf : s.fatal = true) (w : Word) :
    stepEvent (.portWrite 0x00 w) s = .next (s.withError 8#32 w) := by
  cases hd : decodeCmd w with
  | ok c => exact stepEvent_cmd_rejects ho hd (.inl hf)
  | error e => rw [stepEvent_cmd_illegal hd, State.badCommand_fatal ho hf]

theorem AtWork.fatal {s s0 : State} {c : Command} (h : AtWork s c s0) : s0.fatal = s.fatal := by
  cases h <;> rfl

theorem State.report_keeps_fatal {s : State} (h : s.fatal = true) (e : ErrCode) (info : Word) :
    (s.report e info).fatal = true := by
  rw [State.report_fatal, h, Bool.true_or]

/-- No event but a restart clears `FATAL`. -/
theorem Moves.keeps_fatal {e : Event} {s t : State} (h : Moves e s t) (hf : s.fatal = true) (he : e ≠ .restart) :
    t.fatal = true := by
  cases h with
  | reject s0 code info hs0 => rcases hs0 with rfl | ⟨c, rfl⟩ <;> exact State.report_keeps_fatal hf code info
  | encodeRejected _ _ code info _ hw => exact State.report_keeps_fatal (hw.fatal.trans hf) code info
  | bridged _ _ _ hw hframe => exact hframe.fatal (hw.fatal.trans hf)
  | gammaDone _ _ hw | ditherDone _ _ hw | encodeDone _ _ _ _ _ hw | waitDone _ _ hw | finishDone _ _ _ hw =>
    exact hw.fatal.trans hf
  | switched | replayed => simpa using hf
  | restarted hrestart => exact absurd hrestart he
  | still | issue | fetched | copied | looked | sampled | operand | looksAtPort | pixel | channel => exact hf

/-- Settles O28: each form of a write to `CMD` by the rejection it meets, and the latch by what an event can do. -/
theorem fatalLatch : Obligations.FatalLatch := by
  refine ⟨fun s ho hf => ⟨stepEvent_cmd_fatal ho hf, fun i hi => ?exec, fun w e he => ?illegal⟩,
    fun s t hf hstep hrestart => ?latch⟩
  case exec =>
    obtain ⟨c, hc⟩ := Option.ne_none_iff_exists'.1 hi
    exact exec_rejects ho hc (.inl hf)
  case illegal => rw [stepEvent_word_illegal he, State.badCommand_fatal ho hf]
  case latch =>
    obtain ⟨-, ⟨-, rfl⟩ | ⟨e, rest, hsched, hev⟩⟩ := step_next hstep
    · exact hf
    · exact (stepEvent_moves hev).keeps_fatal hf fun he => hrestart rest (he ▸ hsched)

end Sys2Proof.Machine
end

section
/-!
PROOFS. The fatal errors of BRIDGE (60_exceptions.md R253 to R256): a region it cannot map, regions a model refuses, and the three
channel errors.
-/

namespace Sys2Proof.Machine

/-! ### Regions that cannot be bound (60_exceptions.md R256, 20_memory.md R75) -/

theorem regionOk_eq_false_iff (base : Word) (n : Nat) :
    regionOk base n = false ↔ base.toNat % 4 ≠ 0 ∨ 2 ^ 32 < base.toNat + n := by
  rw [← Bool.not_eq_true, regionOk_iff]
  omega

theorem regionsApart_eq_false_iff (cb fs : Word) :
    regionsApart cb fs = false ↔ fs.toNat < cb.toNat + 20 ∧ cb.toNat < fs.toNat + 2097152 := by
  rw [← Bool.not_eq_true, regionsApart_iff]
  omega

theorem bridgeBind_badControlBlock {a : Word} (s : State) (ha : regionOk a cbBytes = false) :
    bridgeBind a s = s.raise .map a :=
  if_neg (Bool.eq_false_iff.1 ha)

theorem bridgeBind_badFrameset {a : Word} {s : State} (ha : regionOk a cbBytes = true)
    (hsize : (s.loadWord (a.toNat + cbOffSize)).toNat = framesetBytes)
    (hf : regionOk (s.loadWord (a.toNat + cbOffAddr)) framesetBytes = false) :
    bridgeBind a s = s.raise .map (s.loadWord (a.toNat + cbOffAddr)) := by
  unfold bridgeBind
  rw [if_pos ha]
  dsimp only
  rw [if_pos hsize, if_neg (Bool.eq_false_iff.1 hf)]

theorem bridgeBind_overlap {a : Word} {s : State} (ha : regionOk a cbBytes = true)
    (hsize : (s.loadWord (a.toNat + cbOffSize)).toNat = framesetBytes)
    (hf : regionOk (s.loadWord (a.toNat + cbOffAddr)) framesetBytes = true)
    (hapart : regionsApart a (s.loadWord (a.toNat + cbOffAddr)) = false) :
    bridgeBind a s = .refused .regionsOverlap := by
  unfold bridgeBind
  rw [if_pos ha]
  dsimp only
  rw [if_pos hsize, if_pos hf, if_neg (Bool.eq_false_iff.1 hapart)]

/-- Settles O32: BRIDGE gets to the reply, and each clause is the test of `bridgeBind` that fails. -/
theorem bridgeMapError : Obligations.BridgeMapError := by
  rintro s h0 h1 h2 h3 rest a f hsend hreply rfl rfl
  obtain ⟨err, st, px, hfresh, hrun⟩ := exec_bridge_replied hsend hreply
  refine ⟨fun hbad => ?controlBlock, fun halign hspace hsize =>
    ⟨fun hbad => ?frameset, fun hfalign hfspace hbelow habove => ?overlap⟩⟩
  case controlBlock =>
    exact hrun.trans ((bridgeBind_badControlBlock _ ((regionOk_eq_false_iff ..).2 hbad)).trans
      (hfresh.raise_fatal rfl _ _))
  case frameset =>
    have hbind := bridgeBind_badFrameset (s := { s.started .bridge err st px with hs := s.repliedChannel rest })
      ((regionOk_iff ..).2 ⟨halign, hspace⟩) hsize ((regionOk_eq_false_iff ..).2 hbad)
    exact hrun.trans (hbind.trans (hfresh.raise_fatal rfl _ _))
  case overlap =>
    have hbind := bridgeBind_overlap (s := { s.started .bridge err st px with hs := s.repliedChannel rest })
      ((regionOk_iff ..).2 ⟨halign, hspace⟩) hsize ((regionOk_iff ..).2 ⟨hfalign, hfspace⟩)
      ((regionsApart_eq_false_iff ..).2 ⟨habove, hbelow⟩)
    exact hrun.trans hbind

/-! ### The channel errors (60_exceptions.md R253 to R255) -/

theorem bodyBridge_unopened {s : State} (hsent : s.hs.state ≠ .sent) (ho : s.hs.opens = false) :
    bodyBridge s = State.raise { s with hs := { s.hs with state := .failed } } .hsOpen 0 :=
  (if_neg hsent).trans (if_neg (Bool.eq_false_iff.1 ho))

theorem bodyBridge_shortWrite {s : State} (hsent : s.hs.state ≠ .sent) (ho : s.hs.opens = true)
    (ha : s.hs.accepts < s.cfg.payload.length) :
    bodyBridge s = State.raise
      { s with hs := { s.hs with state := .failed, sentOut := s.hs.sentOut ++ s.cfg.payload.take s.hs.accepts } }
      .hsShortWrite (BitVec.ofNat 32 s.hs.accepts) := by
  unfold bodyBridge bridgeSend
  rw [if_neg hsent, if_pos ho]
  dsimp only
  rw [Nat.min_eq_left ha.le, if_pos ha]
  rfl

/-- The channel has ended before four bytes arrived: those there are taken, and counted. -/
theorem bridgeRead_short {s : State} (hl : s.hs.inbox.length < 4) (he : s.hs.ended = true) :
    bridgeRead s = State.raise { s with hs := { s.hs with state := .failed, inbox := [] } } .hsShortRead
      (BitVec.ofNat 32 s.hs.inbox.length) := by
  unfold bridgeRead
  split
  · rename_i h
    rw [h] at hl
    simp only [List.length_cons] at hl
    omega
  · exact if_pos he

/-- BRIDGE that the lifecycle allows and whose own part is error `e` of the fatal class ends in it. -/
theorem exec_bridge_fatal {s : State} (ht : s.takes .bridge) (hb : s.bound = none) (hm : s.cfg.mode = .production)
    {e : ErrCode} (he : e.errClass = .fatal) {info : Word} {hs : Channel}
    (hbody : ∀ err st px, bodyBridge (s.started .bridge err st px)
      = State.raise { s.started .bridge err st px with hs := hs } e info) :
    exec .bridge s = .next { s.withError e.code info with fatal := true, hs := hs } := by
  obtain ⟨err, st, px, hfresh, hrun⟩ := State.command_takes ht (State.allows_bridge hb hm) bodyBridge
  exact hrun.trans ((hbody err st px).trans (hfresh.raise_fatal he info hs))

/-- Settles O33: each error by what BRIDGE's own part raises, whatever has been changed under the command. -/
theorem bridgeChannelErrors : Obligations.BridgeChannelErrors := by
  refine fun s => ⟨fun ht hb hm hsent ho => ?unopened, fun ht hb hm hsent ho ha => ?shortWrite,
    fun ⟨ht, hb, hm, hchannel⟩ hl he => ?shortRead⟩
  case unopened => exact exec_bridge_fatal ht hb hm (e := .hsOpen) rfl fun _ _ _ => bodyBridge_unopened hsent ho
  case shortWrite =>
    exact exec_bridge_fatal ht hb hm (e := .hsShortWrite) rfl fun _ _ _ => bodyBridge_shortWrite hsent ho ha
  case shortRead =>
    exact exec_bridge_fatal ht hb hm (e := .hsShortRead) rfl fun err st px =>
      (bodyBridge_reads (s := s.started .bridge err st px) hchannel).trans (bridgeRead_short hl he)

end Sys2Proof.Machine
end

section
/-!
PROOFS. A restart of SW and the block with the coprocessor left running (70_reset_and_hazards.md R282): where the shared
memory is after it, and what an ENCODE it cuts short leaves.
-/

namespace Sys2Proof.Machine

/-! ### Where the shared memory is (log 16) -/

theorem State.Legal.bases_eq_copBases {s : State} (hs : s.Legal) : s.bases = s.copBases := by
  unfold State.bases
  cases hbound : s.bound with
  | none => rfl
  | some bs => exact (hs.boundShared bs hbound).symm

/-- Offline the platform's bases are COP's; in production none are bound, and COP's own serve. -/
theorem State.Legal.restart_bases {s : State} (hs : s.Legal) : s.restart.bases = s.bases := by
  rw [hs.bases_eq_copBases]
  unfold State.bases
  rw [State.restart_bound, State.restart_copBases]
  split
  · exact (hs.offlineShared ‹_›).symm
  · rfl

/-! ### An ENCODE cut short (41_encoder.md R166, log 21) -/

theorem State.restart_of_no_store {s : State} (h : ∀ b, s.mayStore b = false) :
    s.restart.mem = s.mem ∧ s.restart.vis = s.vis := by
  rw [State.restart_mem, State.restart_vis, State.cutShort_of_not_encode h]
  exact ⟨rfl, rfl⟩

theorem State.restart_vis_of_mayStore {s : State} {b : Sbank} (h : s.mayStore b = true) :
    s.restart.vis = s.vis.set b .pending := by
  rw [State.restart_vis, State.cutShort_encode h, State.abandonEncode_vis]

theorem State.restart_read_of_mayStore {s : State} {b : Sbank} (h : s.mayStore b = true) {a : Nat}
    (ha : a < s.bases.sbankBase b ∨ s.bases.sbankBase b + schedBytes ≤ a) : s.restart.mem.read a = s.mem.read a := by
  rw [State.restart_mem, State.cutShort_encode h, State.abandonEncode_mem, Memory.read_fill_out ha]

/-- Settles O49: the fields are the restart's own; its memory and pending stores are those of the command it cuts short. -/
theorem restartLeavesCoprocessor : Obligations.RestartLeavesCoprocessor := fun s =>
  ⟨s.restart, rfl, rfl, rfl, rfl, State.Legal.restart_bases, rfl, rfl, rfl, rfl, rfl, rfl, rfl, rfl, rfl, rfl, rfl,
    State.restart_of_no_store,
    fun _ hmay => ⟨State.restart_vis_of_mayStore hmay, fun _ ha => State.restart_read_of_mayStore hmay ha⟩⟩

end Sys2Proof.Machine
end
